-- ==== Sys2Proof/Word.lean ====
section
/-! DEFINITION. The word types of the BPTC block decoder: the 32-bit host word and command word
(spec R71, R55), the output byte (R27) and the 128-bit block (R25). -/

namespace Sys2Proof

/-- A 32-bit host word, command word or OUTF element (R21, R26, R57). -/
abbrev Word := BitVec 32

/-- A byte of OUTB or of a block (R27, R51). -/
abbrev Byte := BitVec 8

/-- The 128-bit block; bit `j` is bit `j mod 8` of byte `j / 8` (R8, R25, R51). -/
abbrev Block := BitVec 128

end Sys2Proof
end

