-- ==== Sys2Proof/Machine/Bits.lean ====
section
/-! DEFINITION. Notation of the spec as functions: masking, sign extension and the floor shift on exact
integers (R9), the cursor read (R121), the leading-zero count of the widening (R255) and the fixed-size
buffer built from its elements. -/

namespace Sys2Proof.Machine

/-- `mask_n(v)`: v mod 2^n, in 0 .. 2^n - 1 (R9). -/
def maskN (n : Nat) (v : Int) : Int := v % ((2 ^ n : Nat) : Int)

/-- `sext_n(v)`: the low n bits of v as an n-bit two's-complement number (R9); n ≥ 1. -/
def sextN (n : Nat) (v : Int) : Int :=
  if maskN n v < ((2 ^ (n - 1) : Nat) : Int) then maskN n v else maskN n v - ((2 ^ n : Nat) : Int)

/-- `a >> s` is the floor of a / 2^s for every integer a (R9, 92 D11). -/
def floorShr (a : Int) (s : Nat) : Int := a >>> s

/-- The cursor read `MemRead(off, n)` = BLK[off+n-1 : off], zero-extended (R51, R121). Its callers check
the range (R123, R125). -/
def memRead (blk : Block) (off n : Nat) : Nat := (blk.toNat >>> off) % 2 ^ n

/-- The number of leading zeros of `m` in `n` bits (R255). -/
def leadingZeros : Nat → Nat → Nat
  | 0, _ => 0
  | n + 1, m => if m.testBit n then 0 else 1 + leadingZeros n m

/-- The buffer whose element `k` is `f k`. -/
def tabulate {α : Type} (n : Nat) (f : Nat → α) : Vector α n := ⟨⟨(List.range n).map f⟩, by simp⟩

/-- Bits 31..0 of `x` as word 0, bits 63..32 as word 1, and so on (R24, R25). -/
def wordOf {w : Nat} (x : BitVec w) (k : Nat) : Word := x.extractLsb' (32 * k) 32

/-- The block with word `k` replaced by `v` (R25, R52): bit b of the word is block bit 32k + b. -/
def setBlockWord (blk : Block) (k : Nat) (v : Word) : Block :=
  (blk &&& ~~~ ((0xFFFFFFFF#128) <<< (32 * k))) ||| ((v.setWidth 128) <<< (32 * k))

end Sys2Proof.Machine
end

