-- ==== Sys2Proof/Config.lean ====
section
/-! DEFINITION. The named parameters the spec leaves to the model (R7, 92 D12, D16): the pattern of a
negative BC6H_SF16 result, and the draw that reset makes of the registers with no reset value.
`NUM_INSTANCES` and `BASE` are not here: the model is of ONE instance (assumption 9) and an access is
named by its offset from `BASE` (assumption 8). -/

namespace Sys2Proof

/-- `SF16_NEG_ENCODING` (R7, R258): the 16-bit pattern BC6H_SF16 emits for a negative result. -/
inductive NegEncoding where
  /-- `SIGN_MAGNITUDE`: `0x8000 OR |f|`, the spec's default. -/
  | signMagnitude
  /-- `TWOS_COMPLEMENT`: `mask_16(f)`. -/
  | twosComplement
  deriving DecidableEq, Repr

/-- The spec's default of `SF16_NEG_ENCODING` (R7, 90 C2). -/
def Config.sf16NegDefault : NegEncoding := .signMagnitude

/-- `RESET_DRAW` (R7, R36, R340): the values the registers without a reset value take at one reset.
The reset event carries it, so every value of it is a run of the model (assumption 2). -/
structure ResetDraw where
  arg0 : Word
  arg1 : Word
  res  : BitVec 64
  blk  : Block
  outf : Vector Word 48
  outb : Vector Byte 64
  deriving DecidableEq, Repr

/-- DESIGN CHOICE (assumption 1): the draw of the constant `State.reset`, all zeros. The spec gives
none of these values; a statement must not rest on them. -/
def Config.zeroDraw : ResetDraw :=
  { arg0 := 0, arg1 := 0, res := 0, blk := 0,
    outf := ⟨⟨List.replicate 48 0⟩, by simp⟩, outb := ⟨⟨List.replicate 64 0⟩, by simp⟩ }

end Sys2Proof
end

