-- ==== Sys2Proof/Syntax.lean ====
section
/-! DEFINITION. The instruction set, whole: the 12 host commands and the 4 reserved opcodes (R72, R73),
the 14 BC6H block formats and 4 reserved BC6H selectors (R82), the 8 BC7 block formats and the reserved
BC7 mode (R101). One constructor of `Instr` per row of the opcode table. A command's operands are the
bit fields of its word (R71, R75); a block's operands are the raw fields of its layout (R80, R108). -/

namespace Sys2Proof

/-- The block family a MODEQ reads `BLK` as: CODEC = 0 is BC6H and 1 is BC7 (R71, R155). -/
inductive Codec where
  | bc6h
  | bc7
  deriving DecidableEq, Repr

/-- A colour channel, numbered R, G, B, A = 0, 1, 2, 3 (R11). -/
inductive Chan where
  | r
  | g
  | b
  | a
  deriving DecidableEq, Repr

/-- The 14 valid BC6H modes, named by their mode id in hexadecimal (R81, R82). -/
inductive Bc6hMode where
  | m00 | m01 | m02 | m06 | m0A | m0E | m12 | m16 | m1A | m1E
  | m03 | m07 | m0B | m0F
  deriving DecidableEq, Repr

/-- The 8 valid BC7 modes (R101). -/
inductive Bc7Mode where
  | m0 | m1 | m2 | m3 | m4 | m5 | m6 | m7
  deriving DecidableEq, Repr

/-- One raw colour triple of a BC6H block: the stored bits of one endpoint, zero-extended (R108, R173). -/
structure Bc6hRaw where
  r : BitVec 16
  g : BitVec 16
  b : BitVec 16
  deriving DecidableEq, Repr

/-- The operand fields of a BC6H block (R84 to R97): the channels of E[0] (`e0`, the spec's r0 g0 b0)
to E[3] (`e3`), the partition index `d` and the index field. A mode with one subset has no `e2`, `e3`
and `d`: they are 0 there. -/
structure Bc6hFields where
  e0 : Bc6hRaw
  e1 : Bc6hRaw
  e2 : Bc6hRaw
  e3 : Bc6hRaw
  d  : BitVec 5
  index : BitVec 63
  deriving DecidableEq, Repr

/-- The raw channels of one stored BC7 endpoint, zero-extended (R102). -/
structure Bc7Raw where
  r : BitVec 8
  g : BitVec 8
  b : BitVec 8
  a : BitVec 8
  deriving DecidableEq, Repr

/-- The operand fields of a BC7 block in the order of R102. A field the mode does not have is 0. Bit `k`
of `p` is the `k`-th stored P-bit: of endpoint `k` in a unique-P-bit mode, of subset `k` in a shared one. -/
structure Bc7Fields where
  part : BitVec 6
  rot  : BitVec 2
  isb  : BitVec 1
  e0 : Bc7Raw
  e1 : Bc7Raw
  e2 : Bc7Raw
  e3 : Bc7Raw
  e4 : Bc7Raw
  e5 : Bc7Raw
  p  : BitVec 6
  idx1 : BitVec 63
  idx2 : BitVec 63
  deriving DecidableEq, Repr

/-- An instruction: one constructor per row of the opcode table. -/
inductive Instr where
  -- host commands (R72)
  /-- NOP, R318. -/
  | nop
  /-- RDBIT, R122. -/
  | rdbit (off : BitVec 7)
  /-- RDBITS, R124. -/
  | rdbits (off : BitVec 7) (len : BitVec 7)
  /-- DECBC6U, R284. -/
  | decbc6u
  /-- DECBC6S, R284. -/
  | decbc6s
  /-- DECBC7, R285. -/
  | decbc7
  /-- MODEQ, R155. -/
  | modeq (codec : Codec)
  /-- PARTQ, R156. -/
  | partq (ns : BitVec 2) (p : BitVec 6) (i : BitVec 4)
  /-- INTERP, R234. -/
  | interp (idx : BitVec 4) (prec : BitVec 3)
  /-- UNQ6, R256. -/
  | unq6 (n : BitVec 5) (sg : Bool)
  /-- FINISH, R260. -/
  | finish (sg : Bool)
  /-- EXPAND7, R264. -/
  | expand7 (n : BitVec 4) (v : BitVec 8)
  -- reserved opcodes (R73); `rest` is w[31:4], which the opcode check does not look at
  /-- OP = 0xC. -/
  | reservedC (rest : BitVec 28)
  /-- OP = 0xD. -/
  | reservedD (rest : BitVec 28)
  /-- OP = 0xE. -/
  | reservedE (rest : BitVec 28)
  /-- OP = 0xF. -/
  | reservedF (rest : BitVec 28)
  -- BC6H blocks (R84 to R97)
  | bc6hMode00 (f : Bc6hFields)
  | bc6hMode01 (f : Bc6hFields)
  | bc6hMode02 (f : Bc6hFields)
  | bc6hMode06 (f : Bc6hFields)
  | bc6hMode0A (f : Bc6hFields)
  | bc6hMode0E (f : Bc6hFields)
  | bc6hMode12 (f : Bc6hFields)
  | bc6hMode16 (f : Bc6hFields)
  | bc6hMode1A (f : Bc6hFields)
  | bc6hMode1E (f : Bc6hFields)
  | bc6hMode03 (f : Bc6hFields)
  | bc6hMode07 (f : Bc6hFields)
  | bc6hMode0B (f : Bc6hFields)
  | bc6hMode0F (f : Bc6hFields)
  -- reserved BC6H selectors (R100); `rest` is the block's other 123 bits, which are not read
  | bc6hReserved13 (rest : BitVec 123)
  | bc6hReserved17 (rest : BitVec 123)
  | bc6hReserved1B (rest : BitVec 123)
  | bc6hReserved1F (rest : BitVec 123)
  -- BC7 blocks (R102, R103)
  | bc7Mode0 (f : Bc7Fields)
  | bc7Mode1 (f : Bc7Fields)
  | bc7Mode2 (f : Bc7Fields)
  | bc7Mode3 (f : Bc7Fields)
  | bc7Mode4 (f : Bc7Fields)
  | bc7Mode5 (f : Bc7Fields)
  | bc7Mode6 (f : Bc7Fields)
  | bc7Mode7 (f : Bc7Fields)
  -- the reserved BC7 mode (R105); `rest` is bits 127..8, which are not read
  | bc7Reserved (rest : BitVec 120)
  deriving DecidableEq, Repr

/-- The block instruction of BC6H mode `m` with fields `f`. -/
def Instr.ofBc6h (m : Bc6hMode) (f : Bc6hFields) : Instr :=
  match m with
  | .m00 => .bc6hMode00 f
  | .m01 => .bc6hMode01 f
  | .m02 => .bc6hMode02 f
  | .m06 => .bc6hMode06 f
  | .m0A => .bc6hMode0A f
  | .m0E => .bc6hMode0E f
  | .m12 => .bc6hMode12 f
  | .m16 => .bc6hMode16 f
  | .m1A => .bc6hMode1A f
  | .m1E => .bc6hMode1E f
  | .m03 => .bc6hMode03 f
  | .m07 => .bc6hMode07 f
  | .m0B => .bc6hMode0B f
  | .m0F => .bc6hMode0F f

/-- The block instruction of BC7 mode `m` with fields `f`. -/
def Instr.ofBc7 (m : Bc7Mode) (f : Bc7Fields) : Instr :=
  match m with
  | .m0 => .bc7Mode0 f
  | .m1 => .bc7Mode1 f
  | .m2 => .bc7Mode2 f
  | .m3 => .bc7Mode3 f
  | .m4 => .bc7Mode4 f
  | .m5 => .bc7Mode5 f
  | .m6 => .bc7Mode6 f
  | .m7 => .bc7Mode7 f

/-- The four reserved BC6H selectors (R82, R100). -/
inductive Bc6hReserved where
  | s13 | s17 | s1B | s1F
  deriving DecidableEq, Repr

/-- The block instruction of a reserved BC6H selector. -/
def Instr.ofBc6hReserved (k : Bc6hReserved) (rest : BitVec 123) : Instr :=
  match k with
  | .s13 => .bc6hReserved13 rest
  | .s17 => .bc6hReserved17 rest
  | .s1B => .bc6hReserved1B rest
  | .s1F => .bc6hReserved1F rest

/-- Channel `c` of a raw BC6H endpoint; BC6H has no alpha (R11), so `a` reads 0. -/
def Bc6hRaw.chan (e : Bc6hRaw) : Chan → BitVec 16
  | .r => e.r
  | .g => e.g
  | .b => e.b
  | .a => 0

/-- Endpoint `k` of a BC6H block (0 to 3; 0s above). -/
def Bc6hFields.endpoint (f : Bc6hFields) : Nat → Bc6hRaw
  | 0 => f.e0
  | 1 => f.e1
  | 2 => f.e2
  | 3 => f.e3
  | _ => ⟨0, 0, 0⟩

/-- Channel `c` of a raw BC7 endpoint. -/
def Bc7Raw.chan (e : Bc7Raw) : Chan → BitVec 8
  | .r => e.r
  | .g => e.g
  | .b => e.b
  | .a => e.a

/-- Endpoint `k` of a BC7 block (0 to 5; 0s above). -/
def Bc7Fields.endpoint (f : Bc7Fields) : Nat → Bc7Raw
  | 0 => f.e0
  | 1 => f.e1
  | 2 => f.e2
  | 3 => f.e3
  | 4 => f.e4
  | 5 => f.e5
  | _ => ⟨0, 0, 0, 0⟩

end Sys2Proof
end

