-- ==== Sys2Proof/Machine/Rom.lean ====
section
/-! DEFINITION. The constant tables of the mode/partition ROM (R31, R140 to R150) and the interpolator's
weight ROM (R231), and the multiplexer that reads them (R143, R146, R152). They are constants of the
machine: no step writes them, so State holds no copy of them. -/

namespace Sys2Proof.Machine

/-- A BC6H ModeDescriptor, the stored columns of `ROM_BC6H_MODE` (R141): header width, partition-bit
count, subset count, endpoint width, delta widths and external mode number. -/
structure Bc6hDesc where
  hdr   : Nat
  pbits : Nat
  ns    : Nat
  eb    : Nat
  dR    : Nat
  dG    : Nat
  dB    : Nat
  ext   : Nat
  deriving DecidableEq, Repr

/-- "yes when the delta vector is nonzero" (R141). -/
def Bc6hDesc.transformed (d : Bc6hDesc) : Bool := !(d.dR == 0 && d.dG == 0 && d.dB == 0)

/-- The delta width of a channel (R141). -/
def Bc6hDesc.delta (d : Bc6hDesc) : Chan → Nat
  | .r => d.dR
  | .g => d.dG
  | .b => d.dB
  | .a => 0

/-- "stored width of E[1..]": the delta width in a transformed mode, EB in an untransformed one (R141). -/
def Bc6hDesc.stored (d : Bc6hDesc) (c : Chan) : Nat := if d.transformed then d.delta c else d.eb

/-- The index field offset: 65 for 1 subset, 82 for 2 (R99, R141). -/
def Bc6hDesc.ioff (d : Bc6hDesc) : Nat := if d.ns = 2 then 82 else 65

/-- The index width, which is also the interpolation precision: 4 for 1 subset, 3 for 2 (R99, R141). -/
def Bc6hDesc.iw (d : Bc6hDesc) : Nat := if d.ns = 2 then 3 else 4

/-- The P-bits of a BC7 mode (R144): none, one per endpoint, or one per subset. -/
inductive PBitKind where
  | none
  | unique
  | shared
  deriving DecidableEq, Repr

/-- PBITKIND as MODEQ reports it (R155). -/
def PBitKind.code : PBitKind → Nat
  | .none => 0
  | .unique => 1
  | .shared => 2

/-- A BC7 ModeDescriptor, a row of `ROM_BC7_MODE` (R144). -/
structure Bc7Desc where
  ns  : Nat
  pb  : Nat
  rb  : Nat
  isb : Nat
  cb  : Nat
  ab  : Nat
  pk  : PBitKind
  ib  : Nat
  ib2 : Nat
  hdr : Nat
  deriving DecidableEq, Repr

/-- The number of stored P-bits: 2·NS, NS or none (R102). -/
def Bc7Desc.pCount (d : Bc7Desc) : Nat :=
  match d.pk with
  | .none => 0
  | .unique => 2 * d.ns
  | .shared => d.ns

/-- The length of the primary index field, 16·IB - NS (R104, R205). -/
def Bc7Desc.len1 (d : Bc7Desc) : Nat := 16 * d.ib - d.ns

/-- The length of the secondary index field, 16·IB2 - 1 where the mode has one (R104, R205). -/
def Bc7Desc.len2 (d : Bc7Desc) : Nat := if d.ib2 = 0 then 0 else 16 * d.ib2 - 1

/-! ## Mode tables -/

/-- The selector value of a valid BC6H mode (R81, R82). -/
def bc6hModeId : Bc6hMode → Nat
  | .m00 => 0
  | .m01 => 1
  | .m02 => 2
  | .m06 => 6
  | .m0A => 10
  | .m0E => 14
  | .m12 => 18
  | .m16 => 22
  | .m1A => 26
  | .m1E => 30
  | .m03 => 3
  | .m07 => 7
  | .m0B => 11
  | .m0F => 15

/-- The valid BC6H mode with selector value `id`, if there is one (R81: the 14 valid ids). -/
def bc6hModeOfId : Nat → Option Bc6hMode
  | 0 => some .m00
  | 1 => some .m01
  | 2 => some .m02
  | 6 => some .m06
  | 10 => some .m0A
  | 14 => some .m0E
  | 18 => some .m12
  | 22 => some .m16
  | 26 => some .m1A
  | 30 => some .m1E
  | 3 => some .m03
  | 7 => some .m07
  | 11 => some .m0B
  | 15 => some .m0F
  | _ => none

/-- The descriptor of each valid mode: `ROM_BC6H_MODE` (R141). Columns HDR, PBITS, NS, EB, deltas R G B,
external mode number. -/
def bc6hDesc : Bc6hMode → Bc6hDesc
  | .m00 => ⟨2, 5, 2, 10, 5, 5, 5, 1⟩
  | .m01 => ⟨2, 5, 2, 7, 6, 6, 6, 2⟩
  | .m02 => ⟨5, 5, 2, 11, 5, 4, 4, 3⟩
  | .m06 => ⟨5, 5, 2, 11, 4, 5, 4, 4⟩
  | .m0A => ⟨5, 5, 2, 11, 4, 4, 5, 5⟩
  | .m0E => ⟨5, 5, 2, 9, 5, 5, 5, 6⟩
  | .m12 => ⟨5, 5, 2, 8, 6, 5, 5, 7⟩
  | .m16 => ⟨5, 5, 2, 8, 5, 6, 5, 8⟩
  | .m1A => ⟨5, 5, 2, 8, 5, 5, 6, 9⟩
  | .m1E => ⟨5, 5, 2, 6, 0, 0, 0, 10⟩
  | .m03 => ⟨5, 0, 1, 10, 0, 0, 0, 11⟩
  | .m07 => ⟨5, 0, 1, 11, 9, 9, 9, 12⟩
  | .m0B => ⟨5, 0, 1, 12, 8, 8, 8, 13⟩
  | .m0F => ⟨5, 0, 1, 16, 4, 4, 4, 14⟩

/-- `ROM_BC6H_MODE[id]`: invalid (none), or valid with its descriptor (R141). -/
def romBc6hMode (id : Nat) : Option Bc6hDesc := (bc6hModeOfId id).map bc6hDesc

/-- The selector value of each reserved BC6H selector (R82, R100). -/
def bc6hReservedId : Bc6hReserved → Nat
  | .s13 => 0x13
  | .s17 => 0x17
  | .s1B => 0x1B
  | .s1F => 0x1F

/-- The mode number of a BC7 mode: the position of the selector's one bit (R101). -/
def bc7ModeId : Bc7Mode → Nat
  | .m0 => 0
  | .m1 => 1
  | .m2 => 2
  | .m3 => 3
  | .m4 => 4
  | .m5 => 5
  | .m6 => 6
  | .m7 => 7

/-- The BC7 mode with number `id`, if there is one (R101: 8 is the reserved mode). -/
def bc7ModeOfId : Nat → Option Bc7Mode
  | 0 => some .m0
  | 1 => some .m1
  | 2 => some .m2
  | 3 => some .m3
  | 4 => some .m4
  | 5 => some .m5
  | 6 => some .m6
  | 7 => some .m7
  | _ => none

/-- `ROM_BC7_MODE` (R144). Columns NS, PB, RB, ISB, CB, AB, P-bit, IB, IB2, HDR. -/
def bc7Desc : Bc7Mode → Bc7Desc
  | .m0 => ⟨3, 4, 0, 0, 4, 0, .unique, 3, 0, 1⟩
  | .m1 => ⟨2, 6, 0, 0, 6, 0, .shared, 3, 0, 2⟩
  | .m2 => ⟨3, 6, 0, 0, 5, 0, .none, 2, 0, 3⟩
  | .m3 => ⟨2, 6, 0, 0, 7, 0, .unique, 2, 0, 4⟩
  | .m4 => ⟨1, 0, 2, 1, 5, 6, .none, 2, 3, 5⟩
  | .m5 => ⟨1, 0, 2, 0, 7, 8, .none, 2, 2, 6⟩
  | .m6 => ⟨1, 0, 0, 0, 7, 7, .unique, 4, 0, 7⟩
  | .m7 => ⟨2, 6, 0, 0, 5, 5, .unique, 2, 0, 8⟩

/-! ## Partition and anchor tables

A row is written as the spec prints it, one digit per texel, texel 0 leftmost, as hexadecimal digits. -/

/-- The digit of texel `i` in a printed row. -/
def rowTexel (row i : Nat) : Nat := (row >>> (4 * (15 - i))) % 16

/-- `ROM_P2`, the 2-subset partitions (R147). -/
def romP2Rows : List Nat :=
  [0x0011_0011_0011_0011, 0x0001_0001_0001_0001, 0x0111_0111_0111_0111, 0x0001_0011_0011_0111,
    0x0000_0001_0001_0011, 0x0011_0111_0111_1111, 0x0001_0011_0111_1111, 0x0000_0001_0011_0111,
    0x0000_0000_0001_0011, 0x0011_0111_1111_1111, 0x0000_0001_0111_1111, 0x0000_0000_0001_0111,
    0x0001_0111_1111_1111, 0x0000_0000_1111_1111, 0x0000_1111_1111_1111, 0x0000_0000_0000_1111] ++
  [0x0000_1000_1110_1111, 0x0111_0001_0000_0000, 0x0000_0000_1000_1110, 0x0111_0011_0001_0000,
    0x0011_0001_0000_0000, 0x0000_1000_1100_1110, 0x0000_0000_1000_1100, 0x0111_0011_0011_0001,
    0x0011_0001_0001_0000, 0x0000_1000_1000_1100, 0x0110_0110_0110_0110, 0x0011_0110_0110_1100,
    0x0001_0111_1110_1000, 0x0000_1111_1111_0000, 0x0111_0001_1000_1110, 0x0011_1001_1001_1100] ++
  [0x0101_0101_0101_0101, 0x0000_1111_0000_1111, 0x0101_1010_0101_1010, 0x0011_0011_1100_1100,
    0x0011_1100_0011_1100, 0x0101_0101_1010_1010, 0x0110_1001_0110_1001, 0x0101_1010_1010_0101,
    0x0111_0011_1100_1110, 0x0001_0011_1100_1000, 0x0011_0010_0100_1100, 0x0011_1011_1101_1100,
    0x0110_1001_1001_0110, 0x0011_1100_1100_0011, 0x0110_0110_1001_1001, 0x0000_0110_0110_0000] ++
  [0x0100_1110_0100_0000, 0x0010_0111_0010_0000, 0x0000_0010_0111_0010, 0x0000_0100_1110_0100,
    0x0110_1100_1001_0011, 0x0011_0110_1100_1001, 0x0110_0011_1001_1100, 0x0011_1001_1100_0110,
    0x0110_1100_1100_1001, 0x0110_0011_0011_1001, 0x0111_1110_1000_0001, 0x0001_1000_1110_0111,
    0x0000_1111_0011_0011, 0x0011_0011_1111_0000, 0x0010_0010_1110_1110, 0x0100_0100_0111_0111]

/-- `ROM_P3`, the 3-subset partitions (R148). -/
def romP3Rows : List Nat :=
  [0x0011_0011_0221_0222, 0x0001_0011_2211_2221, 0x0000_2001_2211_2211, 0x0222_0022_0011_0111,
    0x0000_0000_1122_1122, 0x0011_0011_0022_0022, 0x0022_0022_1111_1111, 0x0011_0011_2211_2211,
    0x0000_0000_1111_2222, 0x0000_1111_1111_2222, 0x0000_1111_2222_2222, 0x0012_0012_0012_0012,
    0x0112_0112_0112_0112, 0x0122_0122_0122_0122, 0x0011_0112_1122_1222, 0x0011_2001_2200_2220] ++
  [0x0001_0011_0112_1122, 0x0111_0011_2001_2200, 0x0000_1122_1122_1122, 0x0022_0022_0022_1111,
    0x0111_0111_0222_0222, 0x0001_0001_2221_2221, 0x0000_0011_0122_0122, 0x0000_1100_2210_2210,
    0x0122_0122_0011_0000, 0x0012_0012_1122_2222, 0x0110_1221_1221_0110, 0x0000_0110_1221_1221,
    0x0022_1102_1102_0022, 0x0110_0110_2002_2222, 0x0011_0122_0122_0011, 0x0000_2000_2211_2221] ++
  [0x0000_0002_1122_1222, 0x0222_0022_0012_0011, 0x0011_0012_0022_0222, 0x0120_0120_0120_0120,
    0x0000_1111_2222_0000, 0x0120_1201_2012_0120, 0x0120_2012_1201_0120, 0x0011_2200_1122_0011,
    0x0011_1122_2200_0011, 0x0101_0101_2222_2222, 0x0000_0000_2121_2121, 0x0022_1122_0022_1122,
    0x0022_0011_0022_0011, 0x0220_1221_0220_1221, 0x0101_2222_2222_0101, 0x0000_2121_2121_2121] ++
  [0x0101_0101_0101_2222, 0x0222_0111_0222_0111, 0x0002_1112_0002_1112, 0x0000_2112_2112_2112,
    0x0222_0111_0111_0222, 0x0002_1112_1112_0002, 0x0110_0110_0110_2222, 0x0000_0000_2112_2112,
    0x0110_0110_2222_2222, 0x0022_0011_0011_0022, 0x0022_1122_1122_0022, 0x0000_0000_0000_2112,
    0x0002_0001_0002_0001, 0x0222_1222_0222_1222, 0x0101_2222_2222_2222, 0x0111_2011_2201_2220]

/-- `ROM_A2`, the anchor texel of subset 1 with 2 subsets (R149). -/
def romA2 : List Nat :=
  [15, 15, 15, 15, 15, 15, 15, 15, 15, 15, 15, 15, 15, 15, 15, 15] ++
  [15, 2, 8, 2, 2, 8, 8, 15, 2, 8, 2, 2, 8, 8, 2, 2] ++
  [15, 15, 6, 8, 2, 8, 15, 15, 2, 8, 2, 2, 2, 15, 15, 6] ++
  [6, 2, 6, 8, 15, 15, 2, 2, 15, 15, 15, 15, 15, 2, 2, 15]

/-- `ROM_A3_1`, the anchor texel of subset 1 with 3 subsets (R150). -/
def romA31 : List Nat :=
  [3, 3, 15, 15, 8, 3, 15, 15, 8, 8, 6, 6, 6, 5, 3, 3] ++
  [3, 3, 8, 15, 3, 3, 6, 10, 5, 8, 8, 6, 8, 5, 15, 15] ++
  [8, 15, 3, 5, 6, 10, 8, 15, 15, 3, 15, 5, 15, 15, 15, 15] ++
  [3, 15, 5, 5, 5, 8, 5, 10, 5, 10, 8, 13, 15, 12, 3, 3]

/-- `ROM_A3_2`, the anchor texel of subset 2 with 3 subsets (R150). -/
def romA32 : List Nat :=
  [15, 8, 8, 3, 15, 15, 3, 8, 15, 15, 15, 15, 15, 15, 15, 8] ++
  [15, 8, 15, 3, 15, 8, 15, 8, 3, 15, 6, 10, 15, 15, 10, 8] ++
  [15, 3, 15, 10, 10, 8, 9, 10, 6, 15, 8, 15, 3, 6, 6, 8] ++
  [15, 3, 15, 15, 15, 15, 15, 15, 15, 15, 15, 15, 3, 15, 15, 8]

/-- `ROM_P2[p][i]` (R147). -/
def romP2 (p i : Nat) : Nat := rowTexel (romP2Rows.getD p 0) i

/-- `ROM_P3[p][i]` (R148). -/
def romP3 (p i : Nat) : Nat := rowTexel (romP3Rows.getD p 0) i

/-- `PartitionTable(ns, p, i)`, the subset of texel `i` (R152). -/
def partitionTable (ns p i : Nat) : Nat :=
  if ns = 2 then romP2 p i else if ns = 3 then romP3 p i else 0

/-- `Anchors(ns, p)`: element `s` is the anchor texel of subset `s` (R152). -/
def anchors (ns p : Nat) : List Nat :=
  if ns = 2 then [0, romA2.getD p 0]
  else if ns = 3 then [0, romA31.getD p 0, romA32.getD p 0]
  else [0]

/-! ## Interpolation weights -/

/-- `W(p)`, the weight table of precision `p` (R231). -/
def weightTable : Nat → List Nat
  | 2 => [0, 21, 43, 64]
  | 3 => [0, 9, 18, 27, 37, 46, 55, 64]
  | 4 => [0, 4, 9, 13, 17, 21, 26, 30, 34, 38, 43, 47, 51, 55, 60, 64]
  | _ => []

/-- `W(p)[idx]` (R231, R232). -/
def weight (p idx : Nat) : Nat := (weightTable p).getD idx 0

end Sys2Proof.Machine
end

