-- ==== Sys2Proof/Machine/State.lean ====
section
/-! DEFINITION. The state of one decoder instance (R20 to R36), the host accesses that act on it (R354) and
the reasons a step can stop. The ROM tables are constants (`Machine/Rom.lean`), not fields. -/

namespace Sys2Proof.Machine

/-- The reasons a step stops with a fault: none. Every fault the spec names is a sticky STATE of the machine
(R313, R314), which a step enters as its next state; no step of this machine stops. -/
inductive Fault where
  deriving DecidableEq, Repr

/-- The reasons an instruction is refused. -/
inductive Refusal where
  /-- Raised by `exec` for an instruction that has no meaning yet, named by its mnemonic. Safe: the run
  stops. No arm of `exec` raises it now. -/
  | notModelled (mnemonic : String)
  deriving DecidableEq, Repr

/-! ## The transient parse state -/

/-- One endpoint, its channels as exact integers (R11, R33): up to 17 bits signed for BC6H, whose `a`
stays 0; 8 bits unsigned for BC7. -/
structure Endpoint where
  r : Int
  g : Int
  b : Int
  a : Int
  deriving DecidableEq, Repr

/-- The mode's descriptor as the ParsedBlock holds it (R33); an invalid mode has none (R141). -/
inductive ModeDesc where
  | none
  | bc6h (d : Bc6hDesc)
  | bc7 (d : Bc7Desc)
  deriving DecidableEq, Repr

/-- The ParsedBlock, the parse result of one decode command (R33). `endpoints` holds 2·NS entries. -/
structure ParsedBlock where
  mode      : BitVec 5
  valid     : Bool
  desc      : ModeDesc
  ns        : BitVec 2
  part      : BitVec 6
  endpoints : List Endpoint
  idx1      : BitVec 64
  idx2      : BitVec 64
  rot       : BitVec 2
  isb       : BitVec 1
  signed    : Bool
  deriving DecidableEq, Repr

/-! ## What the host does -/

/-- One interaction of the host with the instance (R354): an access of `width` bits at a byte offset into
the register window (R55, R56; the window is 1 KiB, so an offset has 10 bits), or the reset input (R340)
with the draw of the registers that have no reset value. -/
inductive HostEvent where
  | write (width : Nat) (off : BitVec 10) (value : Word)
  | read (width : Nat) (off : BitVec 10)
  | reset (draw : ResetDraw)
  deriving DecidableEq, Repr

/-! ## The state -/

/-- The whole state of one decoder instance (R20), with the host's side of its port. -/
structure State where
  /-- CMD: the last command word stored (R21). -/
  cmd : Word
  /-- STATUS: FAULT 0, INVALID 1, CAUSE 7:4, the other bits reserved (R22). -/
  status : Word
  /-- ARG0 (R23). -/
  arg0 : Word
  /-- ARG1 (R23). -/
  arg1 : Word
  /-- RES (R24). -/
  res : BitVec 64
  /-- BLK (R25). -/
  blk : Block
  /-- OUTF[0..47] (R26). -/
  outf : Vector Word 48
  /-- OUTB[0..63] (R27). -/
  outb : Vector Byte 64
  /-- The ParsedBlock: present only inside a decode command (R20, R33, R34). -/
  parsed : Option ParsedBlock
  /-- The model's own: the named parameter SF16_NEG_ENCODING (R7), which no step changes (assumption 3). -/
  sf16Neg : NegEncoding
  /-- The model's own: the host accesses still to come, the next one first (R59, R354; assumption 5). -/
  hostIn : List HostEvent
  /-- The model's own: the values the host's reads have returned, the latest first (R354; assumption 5). -/
  readLog : List Word
  deriving DecidableEq, Repr

/-- What one reset leaves in the registers of R36, for the draw `d`; the host's side is as given. -/
def State.afterReset (d : ResetDraw) (neg : NegEncoding) (hostIn : List HostEvent) (readLog : List Word) :
    State :=
  { cmd := 0, status := 0, arg0 := d.arg0, arg1 := d.arg1, res := d.res, blk := d.blk, outf := d.outf,
    outb := d.outb, parsed := none, sf16Neg := neg, hostIn := hostIn, readLog := readLog }

/-- The machine right after reset (R36, R340), with the zero draw (assumption 1), the default of
SF16_NEG_ENCODING and no host access pending. -/
def State.reset : State := State.afterReset Config.zeroDraw Config.sf16NegDefault [] []

end Sys2Proof.Machine
end

