-- ==== Sys2Proof/Machine/Flags.lean ====
section
/-! DEFINITION. The status flags (R22, R30): reading FAULT, INVALID and CAUSE, and the two ways they are
written: a fault records its cause (R311, R313) and a decode command writes INVALID (R282). -/

namespace Sys2Proof.Machine

/-- The fault causes (R311). -/
inductive Cause where
  | badOpcode
  | reservedField
  | readRange
  | badOperand
  | badAccess
  deriving DecidableEq, Repr

/-- The cause codes (R311); 0 is NONE, and 6 to 15 are reserved. -/
def causeCode : Cause → BitVec 4
  | .badOpcode => 1
  | .reservedField => 2
  | .readRange => 3
  | .badOperand => 4
  | .badAccess => 5

/-- STATUS.FAULT, bit 0 (R22). -/
def statusFault (w : Word) : Bool := w.getLsbD 0

/-- STATUS.INVALID, bit 1 (R22). -/
def statusInvalid (w : Word) : Bool := w.getLsbD 1

/-- STATUS.CAUSE, bits 7:4 (R22). -/
def statusCause (w : Word) : BitVec 4 := w.extractLsb' 4 4

/-- STATUS with FAULT set and CAUSE written; INVALID and the reserved bits are kept (R313). -/
def statusWithFault (w : Word) (c : Cause) : Word :=
  (w &&& 0xFFFFFF0E) ||| 0x1 ||| ((causeCode c).setWidth 32 <<< 4)

/-- STATUS with INVALID written and every other bit kept (R282). -/
def statusWithInvalid (w : Word) (b : Bool) : Word :=
  (w &&& 0xFFFFFFFD) ||| (if b then 0x2 else 0x0)

/-- The instance is in the faulted state (R314). -/
def State.faulted (s : State) : Bool := statusFault s.status

end Sys2Proof.Machine
end

