-- ==== Sys2Proof/Machine/Ops.lean ====
section
/-! DEFINITION. The operations the meanings share: raising a fault (R313), the reset event (R340, the only way
out of a fault, R315), writing RES (R24), and beginning and ending a decode command (R33, R280, R282). -/

namespace Sys2Proof.Machine

/-- The outcome of a step of this machine. -/
abbrev Out := Host.Outcome State Fault Refusal

/-- `raise Fault(cause)` (R313): STATUS.FAULT and STATUS.CAUSE are written and nothing else changes (R310).
It is the machine's one exception; there is no handler, no vector and no saved state. -/
def raiseFault (c : Cause) (s : State) : State := { s with status := statusWithFault s.status c }

/-- A command or access that ends in `raise Fault(cause)`. -/
def faultWith (c : Cause) (s : State) : Out := .next (raiseFault c s)

/-- The reset event with its draw (R340): every register takes its reset value of R36. It clears FAULT and
CAUSE; there is no return-from-fault command (R315). The host's pending accesses and what it has read are
the host's, and stay. -/
def takeReset (d : ResetDraw) (s : State) : State := State.afterReset d s.sf16Neg s.hostIn s.readLog

/-- `RES <- v`, all 64 bits (R24). -/
def writeRes (v : BitVec 64) (s : State) : State := { s with res := v }

/-- A decode command creates its ParsedBlock (R33). -/
def beginDecode (pb : ParsedBlock) (s : State) : State := { s with parsed := some pb }

/-- A decode command that completes writes STATUS.INVALID (R282) and discards the ParsedBlock (R33, R34). -/
def endDecode (s : State) : State :=
  match s.parsed with
  | none => s
  | some pb => { s with status := statusWithInvalid s.status (!pb.valid), parsed := none }

end Sys2Proof.Machine
end

