-- ==== Sys2Proof/Machine/Operands.lean ====
section
/-! DEFINITION. Operand forms: the operand registers as integers (R77), the SIGNED operand of a BC6H block
(R170), and the operand domain of each command (R123, R156, R234, R256, R260, R264). The bit fields of a
command word are the operands of its constructor (`Decode.lean`, R75). -/

namespace Sys2Proof.Machine

/-- `sext_32(ARG0)` (R77). -/
def argInt0 (s : State) : Int := s.arg0.toInt

/-- `sext_32(ARG1)` (R77). -/
def argInt1 (s : State) : Int := s.arg1.toInt

/-- SIGNED of a BC6H block (R170, 92 D13): 1 when the command in CMD is DECBC6S. A block instruction runs
while CMD holds its decode command (R70; assumption 6). -/
def blockSigned (s : State) : Bool := s.cmd.extractLsb' 0 4 = 0x4

/-- RDBITS's range: LEN in 1..64 and OFF + LEN ≤ 128 (R123, R124). -/
def readInRange (off len : Nat) : Bool := 1 ≤ len && len ≤ 64 && off + len ≤ 128

/-- PARTQ's domain: NS ≠ 0, and P = 0 where NS = 1 (R156). -/
def partqInDomain (ns p : Nat) : Bool := ns != 0 && !(ns == 1 && p != 0)

/-- INTERP's domain: PREC ∈ {2, 3, 4} and IDX < 2^PREC (R234). -/
def interpInDomain (idx prec : Nat) : Bool := (prec == 2 || prec == 3 || prec == 4) && idx < 2 ^ prec

/-- UNQ6's domain: N in 1..16 and the operand an N-bit value of the signedness SG (R256). -/
def unq6InDomain (n : Nat) (sg : Bool) (v : Int) : Bool :=
  1 ≤ n && n ≤ 16 &&
  if sg then -((2 ^ (n - 1) : Nat) : Int) ≤ v && v ≤ ((2 ^ (n - 1) : Nat) : Int) - 1
  else 0 ≤ v && v ≤ ((2 ^ n : Nat) : Int) - 1

/-- FINISH's domain: 0..0xFFFF unsigned, -32768..32767 signed (R260). -/
def finishInDomain (sg : Bool) (x : Int) : Bool :=
  if sg then -32768 ≤ x && x ≤ 32767 else 0 ≤ x && x ≤ 0xFFFF

/-- EXPAND7's domain: N in 4..8 and V < 2^N (R264). -/
def expand7InDomain (n v : Nat) : Bool := 4 ≤ n && n ≤ 8 && v < 2 ^ n

end Sys2Proof.Machine
end

