-- ==== Sys2Proof/Machine/Cursor.lean ====
section
/-! DEFINITION. The commands of the bit-extraction cursor: RDBIT (R122) and RDBITS (R124). The read itself is
`memRead` (R121, `Machine/Bits.lean`); the cursor holds no state (R120). -/

namespace Sys2Proof.Machine

/-- RDBIT (R122): `RES <- zext_64(MemRead(OFF, 1))`. -/
def execRdbit (off : BitVec 7) (s : State) : Out :=
  .next (writeRes (BitVec.ofNat 64 (memRead s.blk off.toNat 1)) s)

/-- RDBITS (R124): `RES <- zext_64(MemRead(OFF, LEN))`, or READ_RANGE outside the block. -/
def execRdbits (off len : BitVec 7) (s : State) : Out :=
  if readInRange off.toNat len.toNat then
    .next (writeRes (BitVec.ofNat 64 (memRead s.blk off.toNat len.toNat)) s)
  else faultWith .readRange s

end Sys2Proof.Machine
end

