-- ==== Sys2Proof/Machine/Interpolator.lean ====
section
/-! DEFINITION. The fixed-point endpoint interpolator (R230 to R233), the per-texel index extraction with
anchor-bit removal (R236), and the command INTERP (R234). -/

namespace Sys2Proof.Machine

/-- `Interpolate(e0, e1, index, precision)` (R232): the weighted sum with the +32 rounding bias, shifted
right by 6 (floor, R9). -/
def interpolate (e0 e1 : Int) (idx prec : Nat) : Int :=
  floorShr ((64 - (weight prec idx : Int)) * e0 + (weight prec idx : Int) * e1 + 32) 6

/-- The offset of texel `i` in an index field of width `w`: one bit fewer for every anchor before it
(R236). -/
def indexOffset (i w ns p : Nat) : Nat := w * i - (anchors ns p).countP (· < i)

/-- The bits texel `i` takes: an anchor's top bit is an implicit zero (R236). -/
def indexBits (i w ns p : Nat) : Nat := if i ∈ anchors ns p then w - 1 else w

/-- `ColorIndex(field, i, W, ns, p)` (R236). -/
def colorIndex (field i w ns p : Nat) : Nat :=
  (field >>> indexOffset i w ns p) % 2 ^ indexBits i w ns p

/-- INTERP (R234): interpolate ARG0 and ARG1; RES is the result sign-extended to 64 bits. -/
def execInterp (idx : BitVec 4) (prec : BitVec 3) (s : State) : Out :=
  if interpInDomain idx.toNat prec.toNat then
    .next (writeRes (BitVec.ofInt 64 (interpolate (argInt0 s) (argInt1 s) idx.toNat prec.toNat)) s)
  else faultWith .badOperand s

end Sys2Proof.Machine
end

