-- ==== Sys2Proof/Machine/Layout.lean ====
section
/-! DEFINITION. The bit layouts of the blocks: `ROM_BC6H_LAYOUT` (R172, the tables of R84 to R97 row by
row) and the BC7 field sequence (R102, R202), both as rows that the one gather of `Decode` and the one
scatter of the encoder read. -/

namespace Sys2Proof.Machine

/-- Block bits `lo .. lo + len - 1` hold bits `bit .. bit + len - 1` of `field`, lowest first (R172). -/
structure LayoutRow (F : Type) where
  lo    : Nat
  len   : Nat
  field : F
  bit   : Nat
  deriving DecidableEq, Repr

/-- The fields of a BC6H block (R172), and its index field (R99). -/
inductive Bc6hField where
  | r0 | g0 | b0 | r1 | g1 | b1 | r2 | g2 | b2 | r3 | g3 | b3 | d | index
  deriving DecidableEq, Repr

/-- The fields of a BC7 block (R102); `chan k c` is channel `c` of the stored endpoint `k`. -/
inductive Bc7Field where
  | part
  | rot
  | isb
  | chan (k : Nat) (c : Chan)
  | p
  | idx1
  | idx2
  deriving DecidableEq, Repr

/-- A table row "block bits a–b | x[h:l]" (R84 to R97, R172). -/
def row (a b : Nat) (x : Bc6hField) (l : Nat) : List (LayoutRow Bc6hField) := [⟨a, b + 1 - a, x, l⟩]

/-- A "descending" row: block bit a holds x[h], a + 1 holds x[h-1], and so on to block bit b (R172). -/
def rowDesc (a b : Nat) (x : Bc6hField) (h : Nat) : List (LayoutRow Bc6hField) :=
  (List.range (b + 1 - a)).map fun k => ⟨a + k, 1, x, h - k⟩

/-- `ROM_BC6H_LAYOUT` (R172): where the endpoint and partition bits of each valid mode lie (R84 to R97). -/
def bc6hLayout : Bc6hMode → List (LayoutRow Bc6hField)
  | .m00 => -- R84
    row 2 2 .g2 4 ++ row 3 3 .b2 4 ++ row 4 4 .b3 4 ++ row 5 14 .r0 0 ++ row 15 24 .g0 0 ++
    row 25 34 .b0 0 ++ row 35 39 .r1 0 ++ row 40 40 .g3 4 ++ row 41 44 .g2 0 ++ row 45 49 .g1 0 ++
    row 50 50 .b3 0 ++ row 51 54 .g3 0 ++ row 55 59 .b1 0 ++ row 60 60 .b3 1 ++ row 61 64 .b2 0 ++
    row 65 69 .r2 0 ++ row 70 70 .b3 2 ++ row 71 75 .r3 0 ++ row 76 76 .b3 3 ++ row 77 81 .d 0
  | .m01 => -- R85
    row 2 2 .g2 5 ++ row 3 3 .g3 4 ++ row 4 4 .g3 5 ++ row 5 11 .r0 0 ++ row 12 12 .b3 0 ++
    row 13 13 .b3 1 ++ row 14 14 .b2 4 ++ row 15 21 .g0 0 ++ row 22 22 .b2 5 ++ row 23 23 .b3 2 ++
    row 24 24 .g2 4 ++ row 25 31 .b0 0 ++ row 32 32 .b3 3 ++ row 33 33 .b3 5 ++ row 34 34 .b3 4 ++
    row 35 40 .r1 0 ++ row 41 44 .g2 0 ++ row 45 50 .g1 0 ++ row 51 54 .g3 0 ++ row 55 60 .b1 0 ++
    row 61 64 .b2 0 ++ row 65 70 .r2 0 ++ row 71 76 .r3 0 ++ row 77 81 .d 0
  | .m02 => -- R86
    row 5 14 .r0 0 ++ row 15 24 .g0 0 ++ row 25 34 .b0 0 ++ row 35 39 .r1 0 ++ row 40 40 .r0 10 ++
    row 41 44 .g2 0 ++ row 45 48 .g1 0 ++ row 49 49 .g0 10 ++ row 50 50 .b3 0 ++ row 51 54 .g3 0 ++
    row 55 58 .b1 0 ++ row 59 59 .b0 10 ++ row 60 60 .b3 1 ++ row 61 64 .b2 0 ++ row 65 69 .r2 0 ++
    row 70 70 .b3 2 ++ row 71 75 .r3 0 ++ row 76 76 .b3 3 ++ row 77 81 .d 0
  | .m06 => -- R87
    row 5 14 .r0 0 ++ row 15 24 .g0 0 ++ row 25 34 .b0 0 ++ row 35 38 .r1 0 ++ row 39 39 .r0 10 ++
    row 40 40 .g3 4 ++ row 41 44 .g2 0 ++ row 45 49 .g1 0 ++ row 50 50 .g0 10 ++ row 51 54 .g3 0 ++
    row 55 58 .b1 0 ++ row 59 59 .b0 10 ++ row 60 60 .b3 1 ++ row 61 64 .b2 0 ++ row 65 68 .r2 0 ++
    row 69 69 .b3 0 ++ row 70 70 .b3 2 ++ row 71 74 .r3 0 ++ row 75 75 .g2 4 ++ row 76 76 .b3 3 ++
    row 77 81 .d 0
  | .m0A => -- R88
    row 5 14 .r0 0 ++ row 15 24 .g0 0 ++ row 25 34 .b0 0 ++ row 35 38 .r1 0 ++ row 39 39 .r0 10 ++
    row 40 40 .b2 4 ++ row 41 44 .g2 0 ++ row 45 48 .g1 0 ++ row 49 49 .g0 10 ++ row 50 50 .b3 0 ++
    row 51 54 .g3 0 ++ row 55 59 .b1 0 ++ row 60 60 .b0 10 ++ row 61 64 .b2 0 ++ row 65 68 .r2 0 ++
    row 69 69 .b3 1 ++ row 70 70 .b3 2 ++ row 71 74 .r3 0 ++ row 75 75 .b3 4 ++ row 76 76 .b3 3 ++
    row 77 81 .d 0
  | .m0E => -- R89
    row 5 13 .r0 0 ++ row 14 14 .b2 4 ++ row 15 23 .g0 0 ++ row 24 24 .g2 4 ++ row 25 33 .b0 0 ++
    row 34 34 .b3 4 ++ row 35 39 .r1 0 ++ row 40 40 .g3 4 ++ row 41 44 .g2 0 ++ row 45 49 .g1 0 ++
    row 50 50 .b3 0 ++ row 51 54 .g3 0 ++ row 55 59 .b1 0 ++ row 60 60 .b3 1 ++ row 61 64 .b2 0 ++
    row 65 69 .r2 0 ++ row 70 70 .b3 2 ++ row 71 75 .r3 0 ++ row 76 76 .b3 3 ++ row 77 81 .d 0
  | .m12 => -- R90
    row 5 12 .r0 0 ++ row 13 13 .g3 4 ++ row 14 14 .b2 4 ++ row 15 22 .g0 0 ++ row 23 23 .b3 2 ++
    row 24 24 .g2 4 ++ row 25 32 .b0 0 ++ row 33 33 .b3 3 ++ row 34 34 .b3 4 ++ row 35 40 .r1 0 ++
    row 41 44 .g2 0 ++ row 45 49 .g1 0 ++ row 50 50 .b3 0 ++ row 51 54 .g3 0 ++ row 55 59 .b1 0 ++
    row 60 60 .b3 1 ++ row 61 64 .b2 0 ++ row 65 70 .r2 0 ++ row 71 76 .r3 0 ++ row 77 81 .d 0
  | .m16 => -- R91
    row 5 12 .r0 0 ++ row 13 13 .b3 0 ++ row 14 14 .b2 4 ++ row 15 22 .g0 0 ++ row 23 23 .g2 5 ++
    row 24 24 .g2 4 ++ row 25 32 .b0 0 ++ row 33 33 .g3 5 ++ row 34 34 .b3 4 ++ row 35 39 .r1 0 ++
    row 40 40 .g3 4 ++ row 41 44 .g2 0 ++ row 45 50 .g1 0 ++ row 51 54 .g3 0 ++ row 55 59 .b1 0 ++
    row 60 60 .b3 1 ++ row 61 64 .b2 0 ++ row 65 69 .r2 0 ++ row 70 70 .b3 2 ++ row 71 75 .r3 0 ++
    row 76 76 .b3 3 ++ row 77 81 .d 0
  | .m1A => -- R92
    row 5 12 .r0 0 ++ row 13 13 .b3 1 ++ row 14 14 .b2 4 ++ row 15 22 .g0 0 ++ row 23 23 .b2 5 ++
    row 24 24 .g2 4 ++ row 25 32 .b0 0 ++ row 33 33 .b3 5 ++ row 34 34 .b3 4 ++ row 35 39 .r1 0 ++
    row 40 40 .g3 4 ++ row 41 44 .g2 0 ++ row 45 49 .g1 0 ++ row 50 50 .b3 0 ++ row 51 54 .g3 0 ++
    row 55 60 .b1 0 ++ row 61 64 .b2 0 ++ row 65 69 .r2 0 ++ row 70 70 .b3 2 ++ row 71 75 .r3 0 ++
    row 76 76 .b3 3 ++ row 77 81 .d 0
  | .m1E => -- R93
    row 5 10 .r0 0 ++ row 11 11 .g3 4 ++ row 12 12 .b3 0 ++ row 13 13 .b3 1 ++ row 14 14 .b2 4 ++
    row 15 20 .g0 0 ++ row 21 21 .g2 5 ++ row 22 22 .b2 5 ++ row 23 23 .b3 2 ++ row 24 24 .g2 4 ++
    row 25 30 .b0 0 ++ row 31 31 .g3 5 ++ row 32 32 .b3 3 ++ row 33 33 .b3 5 ++ row 34 34 .b3 4 ++
    row 35 40 .r1 0 ++ row 41 44 .g2 0 ++ row 45 50 .g1 0 ++ row 51 54 .g3 0 ++ row 55 60 .b1 0 ++
    row 61 64 .b2 0 ++ row 65 70 .r2 0 ++ row 71 76 .r3 0 ++ row 77 81 .d 0
  | .m03 => -- R94
    row 5 14 .r0 0 ++ row 15 24 .g0 0 ++ row 25 34 .b0 0 ++ row 35 44 .r1 0 ++ row 45 54 .g1 0 ++
    row 55 64 .b1 0
  | .m07 => -- R95
    row 5 14 .r0 0 ++ row 15 24 .g0 0 ++ row 25 34 .b0 0 ++ row 35 43 .r1 0 ++ row 44 44 .r0 10 ++
    row 45 53 .g1 0 ++ row 54 54 .g0 10 ++ row 55 63 .b1 0 ++ row 64 64 .b0 10
  | .m0B => -- R96
    row 5 14 .r0 0 ++ row 15 24 .g0 0 ++ row 25 34 .b0 0 ++ row 35 42 .r1 0 ++ rowDesc 43 44 .r0 11 ++
    row 45 52 .g1 0 ++ rowDesc 53 54 .g0 11 ++ row 55 62 .b1 0 ++ rowDesc 63 64 .b0 11
  | .m0F => -- R97
    row 5 14 .r0 0 ++ row 15 24 .g0 0 ++ row 25 34 .b0 0 ++ row 35 38 .r1 0 ++ rowDesc 39 44 .r0 15 ++
    row 45 48 .g1 0 ++ rowDesc 49 54 .g0 15 ++ row 55 58 .b1 0 ++ rowDesc 59 64 .b0 15

/-- All rows of a BC6H block: the layout of its mode and its index field, bits IOFF to 127 (R99). -/
def bc6hRows (m : Bc6hMode) : List (LayoutRow Bc6hField) :=
  bc6hLayout m ++ row (bc6hDesc m).ioff 127 .index 0

/-- The channels a BC7 block stores one after another (R102). -/
def bc7Colors : List Chan := [.r, .g, .b]

/-- The `take`s of the BC7 parser in order, each field with its width (R102, R202). -/
def bc7Takes (d : Bc7Desc) : List (Bc7Field × Nat) :=
  [(.part, d.pb), (.rot, d.rb), (.isb, d.isb)] ++
  (bc7Colors.flatMap fun c => (List.range (2 * d.ns)).map fun k => (.chan k c, d.cb)) ++
  ((List.range (2 * d.ns)).map fun k => (.chan k .a, d.ab)) ++
  [(.p, d.pCount), (.idx1, d.len1), (.idx2, d.len2)]

/-- The rows that taking fields one after another from block bit `pos` produces (R202). -/
def placeFrom (pos : Nat) : List (Bc7Field × Nat) → List (LayoutRow Bc7Field)
  | [] => []
  | (x, n) :: rest => ⟨pos, n, x, 0⟩ :: placeFrom (pos + n) rest

/-- All rows of a BC7 block of mode `m`, from block bit HDR = MODE + 1 (R202, R103). -/
def bc7Rows (m : Bc7Mode) : List (LayoutRow Bc7Field) :=
  placeFrom (bc7Desc m).hdr (bc7Takes (bc7Desc m))

/-- Gather (R173): field `x` is the OR of the block bits its rows name, each moved to its place. -/
def gather {F : Type} [DecidableEq F] (blk : Block) (rows : List (LayoutRow F)) (x : F) : Nat :=
  rows.foldr (fun r acc => if r.field = x then (memRead blk r.lo r.len <<< r.bit) ||| acc else acc) 0

/-- Scatter, the encoder's inverse of `gather`: every row's bits of its field, moved into the block. -/
def scatter {F : Type} (val : F → Nat) (rows : List (LayoutRow F)) : Nat :=
  rows.foldr (fun r acc => (((val r.field >>> r.bit) % 2 ^ r.len) <<< r.lo) ||| acc) 0

end Sys2Proof.Machine
end

