-- ==== Sys2Proof/WellFormed.lean ====
section
/-! DEFINITION. Which instructions have an encoding: every command (its operands are the bit fields of the
word, R71, R75), and a block whose fields fit the widths its mode's descriptor gives them (R83, R102,
R141, R144); a field the mode does not have is 0. -/

namespace Sys2Proof

open Machine

/-- The channel `x` of a BC6H endpoint fits `n` bits. -/
def fits6 (n : Nat) (x : BitVec 16) : Bool := x.toNat < 2 ^ n

/-- E[0] has EB bits per channel (R141). -/
def Bc6hFields.baseFits (d : Bc6hDesc) (f : Bc6hFields) : Bool :=
  fits6 d.eb f.e0.r && fits6 d.eb f.e0.g && fits6 d.eb f.e0.b

/-- Every channel of a stored endpoint other than E[0] fits its stored width (R141). -/
def Bc6hRaw.fits (d : Bc6hDesc) (e : Bc6hRaw) : Bool :=
  fits6 (d.stored .r) e.r && fits6 (d.stored .g) e.g && fits6 (d.stored .b) e.b

/-- A 1-subset block has no E[2], E[3] and partition index (R83, R141). -/
def Bc6hFields.absentZero (d : Bc6hDesc) (f : Bc6hFields) : Bool :=
  d.ns == 2 || (f.e2 == ⟨0, 0, 0⟩ && f.e3 == ⟨0, 0, 0⟩ && f.d == 0)

/-- The index field has 128 - IOFF bits (R99). -/
def Bc6hFields.indexFits (d : Bc6hDesc) (f : Bc6hFields) : Bool := f.index.toNat < 2 ^ (128 - d.ioff)

/-- The fields fit a BC6H block of this descriptor. -/
def Bc6hFields.wf (d : Bc6hDesc) (f : Bc6hFields) : Bool :=
  f.baseFits d && f.e1.fits d && f.e2.fits d && f.e3.fits d && f.absentZero d && f.indexFits d

/-- Every channel of a stored BC7 endpoint fits CB (colour) or AB (alpha) bits (R102, R144). -/
def Bc7Raw.fits (d : Bc7Desc) (e : Bc7Raw) : Bool :=
  e.r.toNat < 2 ^ d.cb && e.g.toNat < 2 ^ d.cb && e.b.toNat < 2 ^ d.cb && e.a.toNat < 2 ^ d.ab

/-- A BC7 endpoint above 2·NS - 1 is not stored (R11, R102). -/
def Bc7Fields.absentZero (d : Bc7Desc) (f : Bc7Fields) : Bool :=
  (d.ns ≥ 2 || (f.e2 == ⟨0, 0, 0, 0⟩ && f.e3 == ⟨0, 0, 0, 0⟩)) &&
  (d.ns ≥ 3 || (f.e4 == ⟨0, 0, 0, 0⟩ && f.e5 == ⟨0, 0, 0, 0⟩))

/-- The partition, rotation, index-selection and P-bit fields fit their widths (R102, R144). -/
def Bc7Fields.headFits (d : Bc7Desc) (f : Bc7Fields) : Bool :=
  f.part.toNat < 2 ^ d.pb && f.rot.toNat < 2 ^ d.rb && f.isb.toNat < 2 ^ d.isb && f.p.toNat < 2 ^ d.pCount

/-- The index fields fit their lengths (R104). -/
def Bc7Fields.indexFits (d : Bc7Desc) (f : Bc7Fields) : Bool :=
  f.idx1.toNat < 2 ^ d.len1 && f.idx2.toNat < 2 ^ d.len2

/-- The fields fit a BC7 block of this descriptor. -/
def Bc7Fields.wf (d : Bc7Desc) (f : Bc7Fields) : Bool :=
  f.headFits d && f.e0.fits d && f.e1.fits d && f.e2.fits d && f.e3.fits d && f.e4.fits d && f.e5.fits d &&
  f.absentZero d && f.indexFits d

/-- The instruction has an encoding. -/
def Instr.wf : Instr → Bool
  | .nop | .rdbit _ | .rdbits _ _ | .decbc6u | .decbc6s | .decbc7 | .modeq _ | .partq _ _ _ | .interp _ _
  | .unq6 _ _ | .finish _ | .expand7 _ _ => true
  | .reservedC _ | .reservedD _ | .reservedE _ | .reservedF _ => true
  | .bc6hMode00 f => f.wf (bc6hDesc .m00)
  | .bc6hMode01 f => f.wf (bc6hDesc .m01)
  | .bc6hMode02 f => f.wf (bc6hDesc .m02)
  | .bc6hMode06 f => f.wf (bc6hDesc .m06)
  | .bc6hMode0A f => f.wf (bc6hDesc .m0A)
  | .bc6hMode0E f => f.wf (bc6hDesc .m0E)
  | .bc6hMode12 f => f.wf (bc6hDesc .m12)
  | .bc6hMode16 f => f.wf (bc6hDesc .m16)
  | .bc6hMode1A f => f.wf (bc6hDesc .m1A)
  | .bc6hMode1E f => f.wf (bc6hDesc .m1E)
  | .bc6hMode03 f => f.wf (bc6hDesc .m03)
  | .bc6hMode07 f => f.wf (bc6hDesc .m07)
  | .bc6hMode0B f => f.wf (bc6hDesc .m0B)
  | .bc6hMode0F f => f.wf (bc6hDesc .m0F)
  | .bc6hReserved13 _ | .bc6hReserved17 _ | .bc6hReserved1B _ | .bc6hReserved1F _ => true
  | .bc7Mode0 f => f.wf (bc7Desc .m0)
  | .bc7Mode1 f => f.wf (bc7Desc .m1)
  | .bc7Mode2 f => f.wf (bc7Desc .m2)
  | .bc7Mode3 f => f.wf (bc7Desc .m3)
  | .bc7Mode4 f => f.wf (bc7Desc .m4)
  | .bc7Mode5 f => f.wf (bc7Desc .m5)
  | .bc7Mode6 f => f.wf (bc7Desc .m6)
  | .bc7Mode7 f => f.wf (bc7Desc .m7)
  | .bc7Reserved _ => true

end Sys2Proof
end

