-- ==== Sys2Proof/Decode.lean ====
section
/-! DEFINITION. The decoder and the encoder. A command is decoded from its 32-bit word (R70 to R75), a block
from its 128 bits as the family the command names (R80 to R108). Decoding is total: a command word with a
reserved bit is rejected by name, and every block decodes to the instruction of its mode. -/

namespace Sys2Proof

open Machine

/-- Why a command word spells no instruction. A reserved OPCODE is not here: it is a row of the opcode table
(R73) and decodes to `reservedC` to `reservedF`. -/
inductive DecodeError where
  /-- A reserved bit of the command's format is 1 (R74). -/
  | reservedField
  deriving DecidableEq, Repr

/-- An encoding with the space it belongs to (R50, R80, R106): a word written to CMD, or a block read by a
BC6H or by a BC7 decode. The bits alone do not say the space (assumption 4). -/
inductive Encoded where
  | command (w : Word)
  | bc6hBlock (b : Block)
  | bc7Block (b : Block)
  deriving DecidableEq, Repr

/-! ## Commands -/

/-- The field `w[hi:lo]` of a command word (R8, R75), as its own bit vector. -/
def field (w : Word) (hi lo : Nat) : BitVec (hi + 1 - lo) := w.extractLsb' lo (hi + 1 - lo)

/-- `OP = w[3:0]` (R72). -/
def opcode (w : Word) : Nat := (field w 3 0).toNat

/-- `RESERVED_MASK(op)`: a 1 in every bit R71 lists as reserved for the format of `op`, LEN included for
RDBIT (R74). The reserved opcodes have no format. -/
def reservedMask : Nat → Word
  | 0x0 => 0xFFFFFFF0   -- C0: 31:4
  | 0x1 => 0xFFFFF800   -- CB of RDBIT: 31:18 and LEN, 17:11
  | 0x2 => 0xFFFC0000   -- CB of RDBITS: 31:18
  | 0x3 => 0xFFFFFFF0   -- C0
  | 0x4 => 0xFFFFFFF0   -- C0
  | 0x5 => 0xFFFFFFF0   -- C0
  | 0x6 => 0xFFFFFFE0   -- CM: 31:5
  | 0x7 => 0xFFFF0000   -- CP: 31:16
  | 0x8 => 0xFFFFF800   -- CI: 31:11
  | 0x9 => 0xFFFFFC00   -- CQ: 31:10
  | 0xA => 0xFFFFFFE0   -- CF: 31:5
  | 0xB => 0xFFFF0000   -- CE: 31:16
  | _ => 0

/-- CODEC as the family it selects (R71). -/
def codecOf (b : BitVec 1) : Codec := if b = 0 then .bc6h else .bc7

/-- SG as a flag: 1 selects signed (R71). -/
def flagOf (b : BitVec 1) : Bool := b = 1

/-- The instruction of a command word whose reserved bits are 0 (R72, R75). -/
def commandOf (w : Word) : Instr :=
  match opcode w with
  | 0x0 => .nop
  | 0x1 => .rdbit (field w 10 4)
  | 0x2 => .rdbits (field w 10 4) (field w 17 11)
  | 0x3 => .decbc6u
  | 0x4 => .decbc6s
  | 0x5 => .decbc7
  | 0x6 => .modeq (codecOf (field w 4 4))
  | 0x7 => .partq (field w 5 4) (field w 11 6) (field w 15 12)
  | 0x8 => .interp (field w 7 4) (field w 10 8)
  | 0x9 => .unq6 (field w 8 4) (flagOf (field w 9 9))
  | 0xA => .finish (flagOf (field w 4 4))
  | 0xB => .expand7 (field w 7 4) (field w 15 8)
  | 0xC => .reservedC (field w 31 4)
  | 0xD => .reservedD (field w 31 4)
  | 0xE => .reservedE (field w 31 4)
  | _ => .reservedF (field w 31 4)

/-- Decode a command word: the opcode check comes first, so a reserved opcode is never rejected for its
other bits (R70, R74, R312). -/
def decodeCommand (w : Word) : Except DecodeError Instr :=
  if w &&& reservedMask (opcode w) = 0 then .ok (commandOf w) else .error .reservedField

/-! ## BC6H blocks -/

/-- The selector of a BC6H block: (MODE, HDR) (R81). -/
def bc6hSelector (blk : Block) : Nat × Nat :=
  if memRead blk 0 2 < 2 then (memRead blk 0 2, 2) else (memRead blk 0 5, 5)

/-- The raw fields of a BC6H block of mode `m` (R108, R173, R180). -/
def bc6hFieldsOf (m : Bc6hMode) (blk : Block) : Bc6hFields :=
  let raw (x : Bc6hField) : BitVec 16 := BitVec.ofNat 16 (gather blk (bc6hRows m) x)
  { e0 := ⟨raw .r0, raw .g0, raw .b0⟩
    e1 := ⟨raw .r1, raw .g1, raw .b1⟩
    e2 := ⟨raw .r2, raw .g2, raw .b2⟩
    e3 := ⟨raw .r3, raw .g3, raw .b3⟩
    d := BitVec.ofNat 5 (gather blk (bc6hRows m) .d)
    index := BitVec.ofNat 63 (gather blk (bc6hRows m) .index) }

/-- The reserved selector of a block that has no valid one (R82): 0x13, 0x17, 0x1B or else 0x1F. -/
def bc6hReservedOf (id : Nat) : Bc6hReserved :=
  if id = 0x13 then .s13 else if id = 0x17 then .s17 else if id = 0x1B then .s1B else .s1F

/-- Decode a block as BC6H: total, by its selector (R81, R82, R106). -/
def decodeBc6hBlock (blk : Block) : Instr :=
  match bc6hModeOfId (bc6hSelector blk).1 with
  | some m => .ofBc6h m (bc6hFieldsOf m blk)
  | none => .ofBc6hReserved (bc6hReservedOf (bc6hSelector blk).1) (blk.extractLsb' 5 123)

/-! ## BC7 blocks -/

/-- The BC7 mode number: the position of the lowest set bit of byte 0, 8 if there is none (R101). -/
def bc7Selector (blk : Block) : Nat := ((List.range 8).find? fun k => blk.getLsbD k).getD 8

/-- The raw fields of a BC7 block of mode `m` (R102, R202). -/
def bc7FieldsOf (m : Bc7Mode) (blk : Block) : Bc7Fields :=
  let g (x : Bc7Field) : Nat := gather blk (bc7Rows m) x
  let raw (k : Nat) : Bc7Raw :=
    ⟨BitVec.ofNat 8 (g (.chan k .r)), BitVec.ofNat 8 (g (.chan k .g)),
     BitVec.ofNat 8 (g (.chan k .b)), BitVec.ofNat 8 (g (.chan k .a))⟩
  { part := BitVec.ofNat 6 (g .part)
    rot := BitVec.ofNat 2 (g .rot)
    isb := BitVec.ofNat 1 (g .isb)
    e0 := raw 0, e1 := raw 1, e2 := raw 2, e3 := raw 3, e4 := raw 4, e5 := raw 5
    p := BitVec.ofNat 6 (g .p)
    idx1 := BitVec.ofNat 63 (g .idx1)
    idx2 := BitVec.ofNat 63 (g .idx2) }

/-- Decode a block as BC7: total, by its selector (R101, R106). -/
def decodeBc7Block (blk : Block) : Instr :=
  match bc7ModeOfId (bc7Selector blk) with
  | some m => .ofBc7 m (bc7FieldsOf m blk)
  | none => .bc7Reserved (blk.extractLsb' 8 120)

/-- Decode an encoding in its space. -/
def decode : Encoded → Except DecodeError Instr
  | .command w => decodeCommand w
  | .bc6hBlock b => .ok (decodeBc6hBlock b)
  | .bc7Block b => .ok (decodeBc7Block b)

/-! ## Encoder -/

/-- A field placed at bit `lo` of a command word (R71). -/
def place {n : Nat} (x : BitVec n) (lo : Nat) : Word := x.setWidth 32 <<< lo

/-- A flag as one bit (R71). -/
def flagBit (b : Bool) : BitVec 1 := if b then 1 else 0

/-- CODEC of a family (R71). -/
def codecBit : Codec → BitVec 1
  | .bc6h => 0
  | .bc7 => 1

/-- Field `x` of the BC6H fields (R172). -/
def bc6hVal (f : Bc6hFields) : Bc6hField → Nat
  | .r0 => f.e0.r.toNat
  | .g0 => f.e0.g.toNat
  | .b0 => f.e0.b.toNat
  | .r1 => f.e1.r.toNat
  | .g1 => f.e1.g.toNat
  | .b1 => f.e1.b.toNat
  | .r2 => f.e2.r.toNat
  | .g2 => f.e2.g.toNat
  | .b2 => f.e2.b.toNat
  | .r3 => f.e3.r.toNat
  | .g3 => f.e3.g.toNat
  | .b3 => f.e3.b.toNat
  | .d => f.d.toNat
  | .index => f.index.toNat

/-- The BC6H block of mode `m` with fields `f`: the selector in bits HDR-1..0, then the layout (R81 to R99). -/
def encodeBc6h (m : Bc6hMode) (f : Bc6hFields) : Block :=
  BitVec.ofNat 128 (bc6hModeId m ||| scatter (bc6hVal f) (bc6hRows m))

/-- The block of a reserved BC6H selector (R82, R100). -/
def encodeBc6hReserved (k : Bc6hReserved) (rest : BitVec 123) : Block :=
  rest ++ BitVec.ofNat 5 (bc6hReservedId k)

/-- Field `x` of the BC7 fields (R102). -/
def bc7Val (f : Bc7Fields) : Bc7Field → Nat
  | .part => f.part.toNat
  | .rot => f.rot.toNat
  | .isb => f.isb.toNat
  | .chan k c => ((f.endpoint k).chan c).toNat
  | .p => f.p.toNat
  | .idx1 => f.idx1.toNat
  | .idx2 => f.idx2.toNat

/-- The BC7 block of mode `m` with fields `f`: MODE zero bits and a one, then the fields (R101, R102). -/
def encodeBc7 (m : Bc7Mode) (f : Bc7Fields) : Block :=
  BitVec.ofNat 128 (2 ^ bc7ModeId m ||| scatter (bc7Val f) (bc7Rows m))

/-- The encoding of an instruction (R71, R72, R78, R84 to R105). -/
def encode : Instr → Encoded
  | .nop => .command 0x0
  | .rdbit off => .command (0x1 ||| place off 4)
  | .rdbits off len => .command (0x2 ||| place off 4 ||| place len 11)
  | .decbc6u => .command 0x3
  | .decbc6s => .command 0x4
  | .decbc7 => .command 0x5
  | .modeq codec => .command (0x6 ||| place (codecBit codec) 4)
  | .partq ns p i => .command (0x7 ||| place ns 4 ||| place p 6 ||| place i 12)
  | .interp idx prec => .command (0x8 ||| place idx 4 ||| place prec 8)
  | .unq6 n sg => .command (0x9 ||| place n 4 ||| place (flagBit sg) 9)
  | .finish sg => .command (0xA ||| place (flagBit sg) 4)
  | .expand7 n v => .command (0xB ||| place n 4 ||| place v 8)
  | .reservedC rest => .command (0xC ||| place rest 4)
  | .reservedD rest => .command (0xD ||| place rest 4)
  | .reservedE rest => .command (0xE ||| place rest 4)
  | .reservedF rest => .command (0xF ||| place rest 4)
  | .bc6hMode00 f => .bc6hBlock (encodeBc6h .m00 f)
  | .bc6hMode01 f => .bc6hBlock (encodeBc6h .m01 f)
  | .bc6hMode02 f => .bc6hBlock (encodeBc6h .m02 f)
  | .bc6hMode06 f => .bc6hBlock (encodeBc6h .m06 f)
  | .bc6hMode0A f => .bc6hBlock (encodeBc6h .m0A f)
  | .bc6hMode0E f => .bc6hBlock (encodeBc6h .m0E f)
  | .bc6hMode12 f => .bc6hBlock (encodeBc6h .m12 f)
  | .bc6hMode16 f => .bc6hBlock (encodeBc6h .m16 f)
  | .bc6hMode1A f => .bc6hBlock (encodeBc6h .m1A f)
  | .bc6hMode1E f => .bc6hBlock (encodeBc6h .m1E f)
  | .bc6hMode03 f => .bc6hBlock (encodeBc6h .m03 f)
  | .bc6hMode07 f => .bc6hBlock (encodeBc6h .m07 f)
  | .bc6hMode0B f => .bc6hBlock (encodeBc6h .m0B f)
  | .bc6hMode0F f => .bc6hBlock (encodeBc6h .m0F f)
  | .bc6hReserved13 rest => .bc6hBlock (encodeBc6hReserved .s13 rest)
  | .bc6hReserved17 rest => .bc6hBlock (encodeBc6hReserved .s17 rest)
  | .bc6hReserved1B rest => .bc6hBlock (encodeBc6hReserved .s1B rest)
  | .bc6hReserved1F rest => .bc6hBlock (encodeBc6hReserved .s1F rest)
  | .bc7Mode0 f => .bc7Block (encodeBc7 .m0 f)
  | .bc7Mode1 f => .bc7Block (encodeBc7 .m1 f)
  | .bc7Mode2 f => .bc7Block (encodeBc7 .m2 f)
  | .bc7Mode3 f => .bc7Block (encodeBc7 .m3 f)
  | .bc7Mode4 f => .bc7Block (encodeBc7 .m4 f)
  | .bc7Mode5 f => .bc7Block (encodeBc7 .m5 f)
  | .bc7Mode6 f => .bc7Block (encodeBc7 .m6 f)
  | .bc7Mode7 f => .bc7Block (encodeBc7 .m7 f)
  | .bc7Reserved rest => .bc7Block (rest ++ (0 : BitVec 8))

/-! ## The opcode table's words

The table's rows lie in three spaces (R50, R106) and a row gives no space, so the space is read from the
number of bits and the bits (assumption 4): every command is exactly 32 bits (R107); a shorter or longer
row is a block's low bits, except the two values 0xC and 0xD that only a reserved opcode has as its own. A
block whose first byte has its one set bit at position 2 to 7 is read as BC7, any other as BC6H. -/

/-- The encoding a word of the opcode table stands for. -/
def tableEncoding (nbits w : Nat) : Encoded :=
  if nbits = 32 || (nbits < 32 && (w = 0xC || w = 0xD)) then .command (BitVec.ofNat 32 w)
  else if w % 256 ∈ [0x04, 0x08, 0x10, 0x20, 0x40, 0x80] then .bc7Block (BitVec.ofNat 128 w)
  else .bc6hBlock (BitVec.ofNat 128 w)

/-- The instruction the decoder reads from the table word `w` of `nbits` bits. -/
def decodeTableWord (nbits w : Nat) : Option Instr := (decode (tableEncoding nbits w)).toOption

end Sys2Proof
end

