-- ==== Sys2Proof/Machine/Scaler.lean ====
section
/-! DEFINITION. The quantization/unquantization scaler: BC6H unquantization (R250 to R253), the final
conversion to half-float and its widening to binary32 (R255, R257, R258), BC7 endpoint expansion (R262), and
the commands UNQ6 (R256), FINISH (R260) and EXPAND7 (R264). -/

namespace Sys2Proof.Machine

/-- The magnitude part of the signed unquantizer (R251). -/
def unquantizeMag (m n : Nat) : Nat :=
  if m = 0 then 0 else if m ≥ 2 ^ (n - 1) - 1 then 0x7FFF else ((m <<< 15) + 0x4000) >>> (n - 1)

/-- `Unquantize6(v, N, 1)` (R251): pass through at N ≥ 16, else scale the magnitude and reapply the sign. -/
def unquantizeSigned (v : Int) (n : Nat) : Int :=
  if n ≥ 16 then v
  else if v < 0 then -(unquantizeMag v.natAbs n : Int) else (unquantizeMag v.natAbs n : Int)

/-- `Unquantize6(v, N, 0)` (R252): pass through at N ≥ 15. -/
def unquantizeUnsigned (v : Int) (n : Nat) : Int :=
  if n ≥ 15 then v
  else if v = 0 then 0
  else if v = ((2 ^ n : Nat) : Int) - 1 then 0xFFFF
  else floorShr (v * 0x10000 + 0x8000) n

/-- `Unquantize6(v, N, SG)` (R250). -/
def unquantize6 (v : Int) (n : Nat) (sg : Bool) : Int :=
  if sg then unquantizeSigned v n else unquantizeUnsigned v n

/-- The signed final scale `sign(x) · ((|x| · 31) >> 5)` (R257). -/
def finishScale (x : Int) : Int := x.sign * (((x.natAbs * 31) >>> 5 : Nat) : Int)

/-- `HalfPattern(f)` under the named parameter SF16_NEG_ENCODING (R258). -/
def halfPattern (enc : NegEncoding) (f : Int) : BitVec 16 :=
  match enc with
  | .signMagnitude => if f < 0 then 0x8000 ||| BitVec.ofNat 16 f.natAbs else BitVec.ofInt 16 f
  | .twosComplement => BitVec.ofInt 16 f

/-- `FinishUnquantize(x, signed)`: an interpolated value as a half-float pattern (R257). -/
def finishUnquantize (enc : NegEncoding) (x : Int) (sg : Bool) : BitVec 16 :=
  if sg then halfPattern enc (finishScale x) else BitVec.ofInt 16 (floorShr (x * 31) 6)

/-- The binary32 pattern with sign bit `s`, exponent `e` and fraction `m` (R255). -/
def packSingle (s e m : Nat) : Word := BitVec.ofNat 32 ((s <<< 31) ||| (e <<< 23) ||| m)

/-- The shift that normalises a subnormal half's fraction: its leading zeros in 10 bits, plus 1 (R255). -/
def subnormalShift (m : Nat) : Nat := leadingZeros 10 m + 1

/-- `WidenHalf(h)`: binary16 to binary32, exact (R255). -/
def widenHalf (h : BitVec 16) : Word :=
  let s := (h.extractLsb' 15 1).toNat
  let e := (h.extractLsb' 10 5).toNat
  let m := (h.extractLsb' 0 10).toNat
  if e = 0 then
    if m = 0 then packSingle s 0 0
    else packSingle s (113 - subnormalShift m) (((m <<< subnormalShift m) % 1024) <<< 13)
  else if e = 31 then packSingle s 0xFF (m <<< 13)
  else packSingle s (e + 112) (m <<< 13)

/-- `Expand7(v, n)`: n bits to 8 by bit replication, for 4 ≤ n ≤ 8 (R262). -/
def expand7 (v n : Nat) : Nat := (v <<< (8 - n)) ||| (v >>> (2 * n - 8))

/-- UNQ6 (R256): unquantize ARG0 from N bits; RES is the result sign-extended to 64 bits. -/
def execUnq6 (n : BitVec 5) (sg : Bool) (s : State) : Out :=
  if unq6InDomain n.toNat sg (argInt0 s) then
    .next (writeRes (BitVec.ofInt 64 (unquantize6 (argInt0 s) n.toNat sg)) s)
  else faultWith .badOperand s

/-- RES of FINISH: the half in bits 15:0 and its widening in bits 63:32, the other bits 0 (R260). -/
def finishResult (h : BitVec 16) : BitVec 64 := widenHalf h ++ h.setWidth 32

/-- FINISH (R260): the final half-float conversion of ARG0 and its widening. -/
def execFinish (sg : Bool) (s : State) : Out :=
  if finishInDomain sg (argInt0 s) then
    .next (writeRes (finishResult (finishUnquantize s.sf16Neg (argInt0 s) sg)) s)
  else faultWith .badOperand s

/-- EXPAND7 (R264): the BC7 expansion of V from N bits. -/
def execExpand7 (n : BitVec 4) (v : BitVec 8) (s : State) : Out :=
  if expand7InDomain n.toNat v.toNat then
    .next (writeRes (BitVec.ofNat 64 (expand7 v.toNat n.toNat)) s)
  else faultWith .badOperand s

end Sys2Proof.Machine
end

