-- ==== Sys2Proof/Machine/Parser.lean ====
section
/-! DEFINITION. The parsers' second half: from the raw fields of a block instruction (`Decode.lean` gathers
them, R172, R173, R202) to the ParsedBlock: BC6H endpoint reconstruction (R174 to R181) and BC7 endpoint
expansion (R203, R204, R208). -/

namespace Sys2Proof.Machine

/-- A channel of an endpoint. -/
def Endpoint.chan (e : Endpoint) : Chan → Int
  | .r => e.r
  | .g => e.g
  | .b => e.b
  | .a => e.a

/-! ## BC6H -/

/-- Sign-extend over EB bits when the target is signed (R175, R177). -/
def signExtendIf (signed : Bool) (eb : Nat) (v : Int) : Int := if signed then sextN eb v else v

/-- Channel `c` of E[0] (R174, R175). -/
def bc6hBase (d : Bc6hDesc) (signed : Bool) (f : Bc6hFields) (c : Chan) : Int :=
  signExtendIf signed d.eb ((f.e0.chan c).toNat : Int)

/-- Channel `c` of E[k] (R174 to R177): E[0] itself, or a delta from it masked to EB bits in a transformed
mode, or an absolute value; sign-extended when signed. -/
def bc6hChannel (d : Bc6hDesc) (signed : Bool) (f : Bc6hFields) (k : Nat) (c : Chan) : Int :=
  let raw : Int := (((f.endpoint k).chan c).toNat : Int)
  if k = 0 then bc6hBase d signed f c
  else if d.transformed then
    signExtendIf signed d.eb (maskN d.eb (bc6hBase d signed f c + sextN (d.delta c) raw))
  else signExtendIf signed d.eb raw

/-- E[k] of a BC6H block. -/
def bc6hEndpoint (d : Bc6hDesc) (signed : Bool) (f : Bc6hFields) (k : Nat) : Endpoint :=
  { r := bc6hChannel d signed f k .r, g := bc6hChannel d signed f k .g, b := bc6hChannel d signed f k .b
    a := 0 }

/-- `BC6H_Parse` for a valid mode (R181): E[0 .. 2·NS-1], PART and IDX1. -/
def parseBc6h (m : Bc6hMode) (signed : Bool) (f : Bc6hFields) : ParsedBlock :=
  { mode := BitVec.ofNat 5 (bc6hModeId m), valid := true, desc := .bc6h (bc6hDesc m)
    ns := BitVec.ofNat 2 (bc6hDesc m).ns
    part := if (bc6hDesc m).ns = 2 then f.d.setWidth 6 else 0
    endpoints := (List.range (2 * (bc6hDesc m).ns)).map (bc6hEndpoint (bc6hDesc m) signed f)
    idx1 := f.index.setWidth 64, idx2 := 0, rot := 0, isb := 0, signed := signed }

/-- The parse of a block with an invalid selector: VALID = 0 and nothing more (R171, R181, R201). -/
def parseInvalid (mode : Nat) (signed : Bool) : ParsedBlock :=
  { mode := BitVec.ofNat 5 mode, valid := false, desc := .none, ns := 0, part := 0, endpoints := []
    idx1 := 0, idx2 := 0, rot := 0, isb := 0, signed := signed }

/-! ## BC7 -/

/-- The P-bit of endpoint `k`: its own, or its subset's (R202, R203). -/
def bc7PBit (d : Bc7Desc) (f : Bc7Fields) (k : Nat) : Nat :=
  match d.pk with
  | .none => 0
  | .unique => (f.p.getLsbD k).toNat
  | .shared => (f.p.getLsbD (k / 2)).toNat

/-- Append the P-bit and expand to 8 bits (R203, R204): `v` is the stored value of `n` bits. -/
def bc7Expand (d : Bc7Desc) (f : Bc7Fields) (k v n : Nat) : Nat :=
  if d.pk = .none then expand7 v n else expand7 ((v <<< 1) ||| bc7PBit d f k) (n + 1)

/-- Channel `c` of E[k] after expansion (R204): alpha is 255 in a mode without alpha. -/
def bc7Channel (d : Bc7Desc) (f : Bc7Fields) (k : Nat) (c : Chan) : Int :=
  let raw : Nat := ((f.endpoint k).chan c).toNat
  if c = .a then
    if d.ab = 0 then 255 else (bc7Expand d f k raw d.ab : Int)
  else (bc7Expand d f k raw d.cb : Int)

/-- E[k] of a BC7 block. -/
def bc7Endpoint (d : Bc7Desc) (f : Bc7Fields) (k : Nat) : Endpoint :=
  { r := bc7Channel d f k .r, g := bc7Channel d f k .g, b := bc7Channel d f k .b, a := bc7Channel d f k .a }

/-- `BC7_Parse` for a valid mode (R208). -/
def parseBc7 (m : Bc7Mode) (f : Bc7Fields) : ParsedBlock :=
  { mode := BitVec.ofNat 5 (bc7ModeId m), valid := true, desc := .bc7 (bc7Desc m)
    ns := BitVec.ofNat 2 (bc7Desc m).ns, part := f.part
    endpoints := (List.range (2 * (bc7Desc m).ns)).map (bc7Endpoint (bc7Desc m) f)
    idx1 := f.idx1.setWidth 64, idx2 := f.idx2.setWidth 64, rot := f.rot, isb := f.isb, signed := false }

end Sys2Proof.Machine
end

