-- ==== Sys2Proof/Machine/Formatter.lean ====
section
/-! DEFINITION. The 16-texel output formatter (R280 to R290): from the ParsedBlock to OUTF (R284, R286) or to
OUTB (R285, R287, R288), zero-filled on an invalid selector (R283). Texel order is row-major (R281). -/

namespace Sys2Proof.Machine

/-- Endpoint `k` of a parsed block. -/
def ParsedBlock.endpoint (pb : ParsedBlock) (k : Nat) : Endpoint := pb.endpoints.getD k ⟨0, 0, 0, 0⟩

/-- The subset of texel `i` (R152). -/
def ParsedBlock.subset (pb : ParsedBlock) (i : Nat) : Nat :=
  partitionTable pb.ns.toNat pb.part.toNat i

/-! ## BC6H -/

/-- Channel number `c` of a BC6H texel (R11, R26). -/
def bc6hChan : Nat → Chan
  | 0 => .r
  | 1 => .g
  | _ => .b

/-- `U[k].c`, the unquantized endpoint channel (R250). -/
def bc6hU (d : Bc6hDesc) (pb : ParsedBlock) (k : Nat) (c : Chan) : Int :=
  unquantize6 ((pb.endpoint k).chan c) d.eb pb.signed

/-- The palette index of texel `i` (R236, R284). -/
def bc6hIndex (d : Bc6hDesc) (pb : ParsedBlock) (i : Nat) : Nat :=
  colorIndex pb.idx1.toNat i d.iw pb.ns.toNat pb.part.toNat

/-- `OUTF[3i + c]` of a valid block (R284): interpolate, finish, widen. -/
def bc6hElement (d : Bc6hDesc) (enc : NegEncoding) (pb : ParsedBlock) (i : Nat) (c : Chan) : Word :=
  widenHalf (finishUnquantize enc
    (interpolate (bc6hU d pb (2 * pb.subset i) c) (bc6hU d pb (2 * pb.subset i + 1) c) (bc6hIndex d pb i) d.iw)
    pb.signed)

/-- The 48 words a BC6H decode writes (R280, R283, R284). -/
def bc6hOutput (enc : NegEncoding) (pb : ParsedBlock) : Vector Word 48 :=
  match pb.desc with
  | .bc6h d => tabulate 48 fun k => bc6hElement d enc pb (k / 3) (bc6hChan (k % 3))
  | _ => tabulate 48 fun _ => 0

/-! ## BC7 -/

/-- The colour and alpha index of a texel with their precisions (R206). -/
structure IndexPair where
  ci : Nat
  cp : Nat
  ai : Nat
  ap : Nat
  deriving DecidableEq, Repr

/-- Index selection for texel `i` (R205, R206). -/
def bc7Indices (d : Bc7Desc) (pb : ParsedBlock) (i : Nat) : IndexPair :=
  let i1 := colorIndex pb.idx1.toNat i d.ib pb.ns.toNat pb.part.toNat
  let i2 := colorIndex pb.idx2.toNat i d.ib2 1 0
  if d.ib2 = 0 then ⟨i1, d.ib, i1, d.ib⟩
  else if d.isb = 1 ∧ pb.isb = 1 then ⟨i2, d.ib2, i1, d.ib⟩
  else ⟨i1, d.ib, i2, d.ib2⟩

/-- `Rotate(t, ROT)` (R288): swap alpha with no channel, red, green or blue. -/
def rotate (t : Endpoint) (rot : BitVec 2) : Endpoint :=
  match rot.toNat with
  | 0 => t
  | 1 => { t with r := t.a, a := t.r }
  | 2 => { t with g := t.a, a := t.g }
  | _ => { t with b := t.a, a := t.b }

/-- The interpolated tuple of texel `i` before rotation (R285). -/
def bc7Texel (d : Bc7Desc) (pb : ParsedBlock) (i : Nat) : Endpoint :=
  let lo := pb.endpoint (2 * pb.subset i)
  let hi := pb.endpoint (2 * pb.subset i + 1)
  let x := bc7Indices d pb i
  { r := interpolate lo.r hi.r x.ci x.cp, g := interpolate lo.g hi.g x.ci x.cp
    b := interpolate lo.b hi.b x.ci x.cp, a := interpolate lo.a hi.a x.ai x.ap }

/-- Channel number `c` of a BC7 texel (R11, R27). -/
def bc7Chan : Nat → Chan
  | 0 => .r
  | 1 => .g
  | 2 => .b
  | _ => .a

/-- The 64 bytes a BC7 decode writes (R280, R283, R285, R287). -/
def bc7Output (pb : ParsedBlock) : Vector Byte 64 :=
  match pb.desc with
  | .bc7 d => tabulate 64 fun k =>
      BitVec.ofInt 8 ((rotate (bc7Texel d pb (k / 4)) pb.rot).chan (bc7Chan (k % 4)))
  | _ => tabulate 64 fun _ => 0

/-! ## Writing the buffers -/

/-- Write all of OUTF from the ParsedBlock (R280, R286). -/
def formatBc6h (s : State) : State :=
  match s.parsed with
  | none => s
  | some pb => { s with outf := bc6hOutput s.sf16Neg pb }

/-- Write all of OUTB from the ParsedBlock (R280, R287). -/
def formatBc7 (s : State) : State :=
  match s.parsed with
  | none => s
  | some pb => { s with outb := bc7Output pb }

/-- Run a BC6H decode of a parsed block (R280): parse result, output, INVALID. -/
def runBc6h (pb : ParsedBlock) (s : State) : Out := .next (endDecode (formatBc6h (beginDecode pb s)))

/-- Run a BC7 decode of a parsed block (R280). -/
def runBc7 (pb : ParsedBlock) (s : State) : Out := .next (endDecode (formatBc7 (beginDecode pb s)))

end Sys2Proof.Machine
end

