-- ==== Sys2Proof/Machine/Bc6hBlocks.lean ====
section
/-! DEFINITION. The BC6H block instructions: one meaning per valid mode (R84 to R97, R284) and per reserved
selector (R100, R283). A block is executed by the decode command in CMD (R80), which also says whether it is
read as signed (R170; assumption 6). -/

namespace Sys2Proof.Machine

/-- Decode the BC6H block of mode `m` with raw fields `f` (R181, R284). -/
def decodeBc6hAs (signed : Bool) (m : Bc6hMode) (f : Bc6hFields) (s : State) : Out :=
  runBc6h (parseBc6h m signed f) s

/-- Decode a BC6H block whose selector `id` is reserved: zero-fill OUTF and set INVALID (R100, R283). -/
def rejectBc6h (id : Nat) (signed : Bool) (s : State) : Out := runBc6h (parseInvalid id signed) s

/-- BC6H mode id 0x00 (R84). -/
def execBc6hMode00 (f : Bc6hFields) (s : State) : Out := decodeBc6hAs (blockSigned s) .m00 f s

/-- BC6H mode id 0x01 (R85). -/
def execBc6hMode01 (f : Bc6hFields) (s : State) : Out := decodeBc6hAs (blockSigned s) .m01 f s

/-- BC6H mode id 0x02 (R86). -/
def execBc6hMode02 (f : Bc6hFields) (s : State) : Out := decodeBc6hAs (blockSigned s) .m02 f s

/-- BC6H mode id 0x06 (R87). -/
def execBc6hMode06 (f : Bc6hFields) (s : State) : Out := decodeBc6hAs (blockSigned s) .m06 f s

/-- BC6H mode id 0x0A (R88). -/
def execBc6hMode0A (f : Bc6hFields) (s : State) : Out := decodeBc6hAs (blockSigned s) .m0A f s

/-- BC6H mode id 0x0E (R89). -/
def execBc6hMode0E (f : Bc6hFields) (s : State) : Out := decodeBc6hAs (blockSigned s) .m0E f s

/-- BC6H mode id 0x12 (R90). -/
def execBc6hMode12 (f : Bc6hFields) (s : State) : Out := decodeBc6hAs (blockSigned s) .m12 f s

/-- BC6H mode id 0x16 (R91). -/
def execBc6hMode16 (f : Bc6hFields) (s : State) : Out := decodeBc6hAs (blockSigned s) .m16 f s

/-- BC6H mode id 0x1A (R92). -/
def execBc6hMode1A (f : Bc6hFields) (s : State) : Out := decodeBc6hAs (blockSigned s) .m1A f s

/-- BC6H mode id 0x1E (R93). -/
def execBc6hMode1E (f : Bc6hFields) (s : State) : Out := decodeBc6hAs (blockSigned s) .m1E f s

/-- BC6H mode id 0x03 (R94). -/
def execBc6hMode03 (f : Bc6hFields) (s : State) : Out := decodeBc6hAs (blockSigned s) .m03 f s

/-- BC6H mode id 0x07 (R95). -/
def execBc6hMode07 (f : Bc6hFields) (s : State) : Out := decodeBc6hAs (blockSigned s) .m07 f s

/-- BC6H mode id 0x0B (R96). -/
def execBc6hMode0B (f : Bc6hFields) (s : State) : Out := decodeBc6hAs (blockSigned s) .m0B f s

/-- BC6H mode id 0x0F (R97). -/
def execBc6hMode0F (f : Bc6hFields) (s : State) : Out := decodeBc6hAs (blockSigned s) .m0F f s

/-- Reserved BC6H selector 0x13; the other 123 bits are not read (R100). -/
def execBc6hReserved13 (_rest : BitVec 123) (s : State) : Out := rejectBc6h 0x13 (blockSigned s) s

/-- Reserved BC6H selector 0x17; the other 123 bits are not read (R100). -/
def execBc6hReserved17 (_rest : BitVec 123) (s : State) : Out := rejectBc6h 0x17 (blockSigned s) s

/-- Reserved BC6H selector 0x1B; the other 123 bits are not read (R100). -/
def execBc6hReserved1B (_rest : BitVec 123) (s : State) : Out := rejectBc6h 0x1B (blockSigned s) s

/-- Reserved BC6H selector 0x1F; the other 123 bits are not read (R100). -/
def execBc6hReserved1F (_rest : BitVec 123) (s : State) : Out := rejectBc6h 0x1F (blockSigned s) s

end Sys2Proof.Machine
end

