-- ==== Sys2Proof/Machine/Bc7Blocks.lean ====
section
/-! DEFINITION. The BC7 block instructions: one meaning per mode (R102, R103, R285) and the reserved mode
(R105, R283). -/

namespace Sys2Proof.Machine

/-- Decode the BC7 block of mode `m` with raw fields `f` (R208, R285). -/
def decodeBc7As (m : Bc7Mode) (f : Bc7Fields) (s : State) : Out := runBc7 (parseBc7 m f) s

/-- Decode a BC7 block with no mode: zero-fill OUTB and set INVALID (R105, R283). -/
def rejectBc7 (s : State) : Out := runBc7 (parseInvalid 8 false) s

/-- BC7 mode 0 (R102, R103). -/
def execBc7Mode0 (f : Bc7Fields) (s : State) : Out := decodeBc7As .m0 f s

/-- BC7 mode 1 (R102, R103). -/
def execBc7Mode1 (f : Bc7Fields) (s : State) : Out := decodeBc7As .m1 f s

/-- BC7 mode 2 (R102, R103). -/
def execBc7Mode2 (f : Bc7Fields) (s : State) : Out := decodeBc7As .m2 f s

/-- BC7 mode 3 (R102, R103). -/
def execBc7Mode3 (f : Bc7Fields) (s : State) : Out := decodeBc7As .m3 f s

/-- BC7 mode 4 (R102, R103). -/
def execBc7Mode4 (f : Bc7Fields) (s : State) : Out := decodeBc7As .m4 f s

/-- BC7 mode 5 (R102, R103). -/
def execBc7Mode5 (f : Bc7Fields) (s : State) : Out := decodeBc7As .m5 f s

/-- BC7 mode 6 (R102, R103). -/
def execBc7Mode6 (f : Bc7Fields) (s : State) : Out := decodeBc7As .m6 f s

/-- BC7 mode 7 (R102, R103). -/
def execBc7Mode7 (f : Bc7Fields) (s : State) : Out := decodeBc7As .m7 f s

/-- The reserved BC7 mode; bits 127..8 are not read (R105). -/
def execBc7Reserved (_rest : BitVec 120) (s : State) : Out := rejectBc7 s

end Sys2Proof.Machine
end

