-- ==== Sys2Proof/Machine/DecodeCommands.lean ====
section
/-! DEFINITION. The decode commands DECBC6U, DECBC6S (R284) and DECBC7 (R285): each decodes the block in BLK as
an instruction of its family (R80) and runs it in the same atomic step (R280, R310). -/

namespace Sys2Proof.Machine

/-- Decode BLK as BC6H with the given signedness (R181, R284). -/
def decodeBlkBc6h (signed : Bool) (s : State) : Out :=
  match bc6hModeOfId (bc6hSelector s.blk).1 with
  | some m => decodeBc6hAs signed m (bc6hFieldsOf m s.blk) s
  | none => rejectBc6h (bc6hSelector s.blk).1 signed s

/-- DECBC6U (R284): SIGNED = 0. -/
def execDecbc6u (s : State) : Out := decodeBlkBc6h false s

/-- DECBC6S (R284): SIGNED = 1. -/
def execDecbc6s (s : State) : Out := decodeBlkBc6h true s

/-- DECBC7 (R285). -/
def execDecbc7 (s : State) : Out :=
  match bc7ModeOfId (bc7Selector s.blk) with
  | some m => decodeBc7As m (bc7FieldsOf m s.blk) s
  | none => rejectBc7 s

end Sys2Proof.Machine
end

