-- ==== Sys2Proof/Machine/Query.lean ====
section
/-! DEFINITION. The query commands of the mode/partition multiplexer: MODEQ (R143, R146, R155) and PARTQ
(R152, R156). They read BLK and the ROM and write RES only. -/

namespace Sys2Proof.Machine

/-- A field of RES: value `v` placed at bit `lo` (R155, R156). -/
def resField (v lo : Nat) : BitVec 64 := BitVec.ofNat 64 v <<< lo

/-- PART of a BC6H block: bits 81:77 with 2 subsets, else 0 (R143). -/
def bc6hPart (d : Bc6hDesc) (blk : Block) : Nat := if d.ns = 2 then memRead blk 77 5 else 0

/-- The RES bits MODEQ reports for a valid BC6H descriptor (R155). -/
def modeqBc6hDesc (d : Bc6hDesc) (part : Nat) : BitVec 64 :=
  resField d.pbits 16 ||| resField d.ns 20 ||| resField d.eb 24 ||| resField d.transformed.toNat 29 |||
  resField d.dR 32 ||| resField d.dG 36 ||| resField d.dB 40 ||| resField d.iw 44 ||| resField part 48 |||
  resField d.ext 56

/-- RES of MODEQ with CODEC = 0 (R155). -/
def modeqBc6h (blk : Block) : BitVec 64 :=
  let sel := bc6hSelector blk
  let head := resField sel.1 0 ||| resField sel.2 12
  match romBc6hMode sel.1 with
  | none => head
  | some d => head ||| resField 1 8 ||| modeqBc6hDesc d (bc6hPart d blk)

/-- PART, ROT and ISBVAL of a BC7 block at the positions of R103: they follow the selector in that order, and
each reads 0 when absent (R146, R155, R202). -/
def bc7Part (d : Bc7Desc) (blk : Block) : Nat := memRead blk d.hdr d.pb

/-- The rotation field of a BC7 block, 0 when absent (R103, R155). -/
def bc7Rot (d : Bc7Desc) (blk : Block) : Nat := memRead blk (d.hdr + d.pb) d.rb

/-- The index-selection bit of a BC7 block, 0 when absent (R103, R155). -/
def bc7Isb (d : Bc7Desc) (blk : Block) : Nat := memRead blk (d.hdr + d.pb + d.rb) d.isb

/-- The RES bits MODEQ reports for a valid BC7 descriptor (R155). -/
def modeqBc7Desc (d : Bc7Desc) (part rot isb : Nat) : BitVec 64 :=
  resField d.pb 16 ||| resField d.ns 20 ||| resField d.rb 22 ||| resField d.cb 24 ||| resField d.ab 28 |||
  resField d.pk.code 32 ||| resField d.isb 34 ||| resField d.ib 36 ||| resField d.ib2 40 |||
  resField part 48 ||| resField rot 56 ||| resField isb 60

/-- RES of MODEQ with CODEC = 1 (R155). -/
def modeqBc7 (blk : Block) : BitVec 64 :=
  let mode := bc7Selector blk
  match bc7ModeOfId mode with
  | none => resField mode 0 ||| resField 8 12
  | some m =>
    resField mode 0 ||| resField 1 8 ||| resField (mode + 1) 12 |||
    modeqBc7Desc (bc7Desc m) (bc7Part (bc7Desc m) blk) (bc7Rot (bc7Desc m) blk) (bc7Isb (bc7Desc m) blk)

/-- MODEQ (R155): report the mode descriptor of BLK. -/
def execModeq (codec : Codec) (s : State) : Out :=
  match codec with
  | .bc6h => .next (writeRes (modeqBc6h s.blk) s)
  | .bc7 => .next (writeRes (modeqBc7 s.blk) s)

/-- RES of PARTQ: the subset, the anchors of subsets 1 and 2, and whether I is its own subset's anchor
(R156). -/
def partqResult (ns p i : Nat) : BitVec 64 :=
  let sub := partitionTable ns p i
  let a := anchors ns p
  resField sub 0 ||| resField (a.getD 1 0) 8 ||| resField (a.getD 2 0) 12 |||
  resField (a.getD sub 0 == i).toNat 16

/-- PARTQ (R156): the subset and anchors of texel I in partition P. -/
def execPartq (ns : BitVec 2) (p : BitVec 6) (i : BitVec 4) (s : State) : Out :=
  if partqInDomain ns.toNat p.toNat then
    .next (writeRes (partqResult ns.toNat p.toNat i.toNat) s)
  else faultWith .badOperand s

end Sys2Proof.Machine
end

