-- ==== Sys2Proof/Machine/System.lean ====
section
/-! DEFINITION. NOP (R318) and the four reserved opcodes (R73). -/

namespace Sys2Proof.Machine

/-- NOP (R318): nothing; the word was stored in CMD before the command ran (R70). -/
def execNop (s : State) : Out := .next s

/-- Reserved opcode 0xC: BAD_OPCODE, whatever the other bits are (R73, R312). -/
def execReservedC (_rest : BitVec 28) (s : State) : Out := faultWith .badOpcode s

/-- Reserved opcode 0xD: BAD_OPCODE (R73). -/
def execReservedD (_rest : BitVec 28) (s : State) : Out := faultWith .badOpcode s

/-- Reserved opcode 0xE: BAD_OPCODE (R73). -/
def execReservedE (_rest : BitVec 28) (s : State) : Out := faultWith .badOpcode s

/-- Reserved opcode 0xF: BAD_OPCODE (R73). -/
def execReservedF (_rest : BitVec 28) (s : State) : Out := faultWith .badOpcode s

end Sys2Proof.Machine
end

