-- ==== Sys2Proof/Machine/Dispatch.lean ====
section
/-! DEFINITION. The dispatch: one arm per instruction, one direct call of its meaning. -/

namespace Sys2Proof.Machine

def exec (i : Instr) (s : State) : Host.Outcome State Fault Refusal :=
  match i with
  | .nop => Sys2Proof.Machine.execNop s
  | .rdbit off => Sys2Proof.Machine.execRdbit off s
  | .rdbits off len => Sys2Proof.Machine.execRdbits off len s
  | .decbc6u => Sys2Proof.Machine.execDecbc6u s
  | .decbc6s => Sys2Proof.Machine.execDecbc6s s
  | .decbc7 => Sys2Proof.Machine.execDecbc7 s
  | .modeq codec => Sys2Proof.Machine.execModeq codec s
  | .partq ns p t => Sys2Proof.Machine.execPartq ns p t s
  | .interp idx prec => Sys2Proof.Machine.execInterp idx prec s
  | .unq6 n sg => Sys2Proof.Machine.execUnq6 n sg s
  | .finish sg => Sys2Proof.Machine.execFinish sg s
  | .expand7 n v => Sys2Proof.Machine.execExpand7 n v s
  | .reservedC rest => Sys2Proof.Machine.execReservedC rest s
  | .reservedD rest => Sys2Proof.Machine.execReservedD rest s
  | .reservedE rest => Sys2Proof.Machine.execReservedE rest s
  | .reservedF rest => Sys2Proof.Machine.execReservedF rest s
  | .bc6hMode00 f => Sys2Proof.Machine.execBc6hMode00 f s
  | .bc6hMode01 f => Sys2Proof.Machine.execBc6hMode01 f s
  | .bc6hMode02 f => Sys2Proof.Machine.execBc6hMode02 f s
  | .bc6hMode06 f => Sys2Proof.Machine.execBc6hMode06 f s
  | .bc6hMode0A f => Sys2Proof.Machine.execBc6hMode0A f s
  | .bc6hMode0E f => Sys2Proof.Machine.execBc6hMode0E f s
  | .bc6hMode12 f => Sys2Proof.Machine.execBc6hMode12 f s
  | .bc6hMode16 f => Sys2Proof.Machine.execBc6hMode16 f s
  | .bc6hMode1A f => Sys2Proof.Machine.execBc6hMode1A f s
  | .bc6hMode1E f => Sys2Proof.Machine.execBc6hMode1E f s
  | .bc6hMode03 f => Sys2Proof.Machine.execBc6hMode03 f s
  | .bc6hMode07 f => Sys2Proof.Machine.execBc6hMode07 f s
  | .bc6hMode0B f => Sys2Proof.Machine.execBc6hMode0B f s
  | .bc6hMode0F f => Sys2Proof.Machine.execBc6hMode0F f s
  | .bc6hReserved13 rest => Sys2Proof.Machine.execBc6hReserved13 rest s
  | .bc6hReserved17 rest => Sys2Proof.Machine.execBc6hReserved17 rest s
  | .bc6hReserved1B rest => Sys2Proof.Machine.execBc6hReserved1B rest s
  | .bc6hReserved1F rest => Sys2Proof.Machine.execBc6hReserved1F rest s
  | .bc7Mode0 f => Sys2Proof.Machine.execBc7Mode0 f s
  | .bc7Mode1 f => Sys2Proof.Machine.execBc7Mode1 f s
  | .bc7Mode2 f => Sys2Proof.Machine.execBc7Mode2 f s
  | .bc7Mode3 f => Sys2Proof.Machine.execBc7Mode3 f s
  | .bc7Mode4 f => Sys2Proof.Machine.execBc7Mode4 f s
  | .bc7Mode5 f => Sys2Proof.Machine.execBc7Mode5 f s
  | .bc7Mode6 f => Sys2Proof.Machine.execBc7Mode6 f s
  | .bc7Mode7 f => Sys2Proof.Machine.execBc7Mode7 f s
  | .bc7Reserved rest => Sys2Proof.Machine.execBc7Reserved rest s

end Sys2Proof.Machine
end

