-- ==== Sys2Proof/Machine/HostPort.lean ====
section
/-! DEFINITION. The host port: the register window (R55 to R57), a CMD write as one command (R70), the faulted
state (R312, R314), and one host event as one step (R59, R354). `Step.lean` only calls this file. -/

namespace Sys2Proof.Machine

/-- The host-visible words of the register window (R56). -/
inductive HostReg where
  | cmd
  | status
  | arg0
  | arg1
  | resLo
  | resHi
  /-- BLK_W0..BLK_W3. -/
  | blkW (k : Fin 4)
  /-- OUTF[0..47]. -/
  | outf (k : Fin 48)
  /-- OUTB[4k..4k+3], k = 0..15. -/
  | outbW (k : Fin 16)
  deriving DecidableEq, Repr

/-- The byte offset of a register (R56). -/
def regOffset : HostReg → Nat
  | .cmd => 0x000
  | .status => 0x004
  | .arg0 => 0x008
  | .arg1 => 0x00C
  | .resLo => 0x010
  | .resHi => 0x014
  | .blkW k => 0x020 + 4 * k
  | .outf k => 0x100 + 4 * k
  | .outbW k => 0x200 + 4 * k

/-- Element `k` of a register array, if the array has it. -/
def regIn {n : Nat} (mk : Fin n → HostReg) (k : Nat) : Option HostReg :=
  if h : k < n then some (mk ⟨k, h⟩) else none

/-- The register at a word index, offset / 4; none where R56 maps nothing. -/
def regOfIndex (j : Nat) : Option HostReg :=
  if j = 0 then some .cmd
  else if j = 1 then some .status
  else if j = 2 then some .arg0
  else if j = 3 then some .arg1
  else if j = 4 then some .resLo
  else if j = 5 then some .resHi
  else if j < 0x08 then none
  else if j < 0x0C then regIn .blkW (j - 0x08)
  else if j < 0x40 then none
  else if j < 0x80 then regIn .outf (j - 0x40)
  else regIn .outbW (j - 0x80)

/-- The register an access reaches: a 32-bit access to a 4-byte-aligned, mapped offset (R55). -/
def accessReg (width : Nat) (off : BitVec 10) : Option HostReg :=
  if width = 32 ∧ off.toNat % 4 = 0 then regOfIndex (off.toNat / 4) else none

/-- The registers the host may write (R28, R56). -/
def hostWritable : HostReg → Bool
  | .cmd | .arg0 | .arg1 | .blkW _ => true
  | .status | .resLo | .resHi | .outf _ | .outbW _ => false

/-- Host word `k` of OUTB: bytes 4k..4k+3, byte 4k in bits 7:0 (R27, R287). -/
def outbWord (s : State) (k : Fin 16) : Word :=
  s.outb[4 * k.val + 3] ++ s.outb[4 * k.val + 2] ++ s.outb[4 * k.val + 1] ++ s.outb[4 * k.val]

/-- The value a read of a register returns (R22 to R27). -/
def readReg (r : HostReg) (s : State) : Word :=
  match r with
  | .cmd => s.cmd
  | .status => s.status
  | .arg0 => s.arg0
  | .arg1 => s.arg1
  | .resLo => wordOf s.res 0
  | .resHi => wordOf s.res 1
  | .blkW k => wordOf s.blk k
  | .outf k => s.outf[k]
  | .outbW k => outbWord s k

/-- A CMD write (R70): store the word, then run it as one command; a reserved bit raises RESERVED_FIELD
(R74). The FAULT check stands before, in `hostWrite` (90 C7). -/
def runCommand (w : Word) (s : State) : Out :=
  match decodeCommand w with
  | .ok i => exec i { s with cmd := w }
  | .error .reservedField => faultWith .reservedField { s with cmd := w }

/-- A write of a value to a writable register (R57); the others are read-only (R55). -/
def writeReg (r : HostReg) (v : Word) (s : State) : Out :=
  match r with
  | .cmd => runCommand v s
  | .arg0 => .next { s with arg0 := v }
  | .arg1 => .next { s with arg1 := v }
  | .blkW k => .next { s with blk := setBlockWord s.blk k v }
  | .status | .resLo | .resHi | .outf _ | .outbW _ => faultWith .badAccess s

/-- A host write (R55, R312, R314): ignored while FAULT = 1; else a bad access raises BAD_ACCESS. -/
def hostWrite (width : Nat) (off : BitVec 10) (v : Word) (s : State) : Out :=
  if s.faulted then .next s
  else
    match accessReg width off with
    | none => faultWith .badAccess s
    | some r => writeReg r v s

/-- The host receives a read's value. -/
def returnWord (v : Word) (s : State) : State := { s with readLog := v :: s.readLog }

/-- A host read (R55, R314): the register's value; a bad access returns 0 and raises BAD_ACCESS, unless the
instance is already faulted. -/
def hostRead (width : Nat) (off : BitVec 10) (s : State) : Out :=
  match accessReg width off with
  | some r => .next (returnWord (readReg r s) s)
  | none => if s.faulted then .next (returnWord 0 s) else faultWith .badAccess (returnWord 0 s)

/-- One host event (R354). -/
def hostEvent (e : HostEvent) (s : State) : Out :=
  match e with
  | .write width off v => hostWrite width off v s
  | .read width off => hostRead width off s
  | .reset d => .next (takeReset d s)

/-- One step: the next pending host event acts; with none pending the instance holds its state (R59, R321,
R354). -/
def nextEvent (s : State) : Out :=
  match s.hostIn with
  | [] => .next s
  | e :: rest => hostEvent e { s with hostIn := rest }

/-- A host write of a command word to CMD. -/
def cmdWrite (w : Word) : HostEvent := .write 32 0 w

/-- Place the encoding `x` where the next step runs it: a command as the next host access; a block in BLK with
the decode command of its family as the next host access (R80), DECBC6U for a BC6H block (assumption 4). -/
def loadEncoded (x : Encoded) (s : State) : State :=
  match x with
  | .command w => { s with hostIn := cmdWrite w :: s.hostIn }
  | .bc6hBlock b => { s with blk := b, hostIn := cmdWrite 0x3 :: s.hostIn }
  | .bc7Block b => { s with blk := b, hostIn := cmdWrite 0x5 :: s.hostIn }

end Sys2Proof.Machine
end

