-- ==== Sys2Proof/Machine/Step.lean ====
section
/-! DEFINITION. The step of one decoder instance, and the placing of one instruction of the opcode table
where the next step runs it. -/

namespace Sys2Proof.Machine

/-- One step is one host event, a command being one atomic step of its CMD write (R310, R354). -/
def step (s : State) : Host.Outcome State Fault Refusal := nextEvent s

/-- `s` with the opcode-table word `w` of `nbits` bits as what the next step runs (assumptions 4 and 5). -/
def State.withFetchWord (s : State) (nbits w : Nat) : State := loadEncoded (tableEncoding nbits w) s

end Sys2Proof.Machine
end

