-- ==== Sys2Proof/Machine/HostProgram.lean ====
section
/-! DEFINITION. Host programs (R78, R79): the lines of the assembler syntax as data, and the host accesses
each stands for. A line is also printed as the spec writes it; reading characters back is not the hardware's
(assumption 10). -/

namespace Sys2Proof.Machine

/-- A line of a host program (R78), the pseudo-instructions included (R79). Operands are the numbers written
in the line. -/
inductive HostLine where
  /-- `wr REG, value`. R78 lists the writable registers; R320 and L3 write `wr STATUS, 0` too (assumption 16). -/
  | wr (r : HostReg) (value : Nat)
  /-- `rd REG`. -/
  | rd (r : HostReg)
  /-- `rd 0x018`: a read at an offset, mapped or not (R320, L3; assumption 16). -/
  | rdAt (off : BitVec 10)
  /-- `wr 0x018, value`: a write at an offset, mapped or not (assumption 16). -/
  | wrAt (off : BitVec 10) (value : Nat)
  | nop
  | rdbit (off : Nat)
  | rdbits (off len : Nat)
  | decBc6hU
  | decBc6hS
  | decBc7
  | modeqBc6h
  | modeqBc7
  | partq (ns p i : Nat)
  | interp (idx prec : Nat)
  | unq6U (n : Nat)
  | unq6S (n : Nat)
  | finishU
  | finishS
  | expand7 (n v : Nat)
  /-- `ldblk b0..b15`: the block's bytes in memory order. -/
  | ldblk (bytes : List Byte)
  /-- `ldblk128 X`. -/
  | ldblk128 (x : Block)
  /-- `interp e0, e1, idx, prec`. -/
  | interpOf (e0 e1 : Int) (idx prec : Nat)
  | unq6UOf (v : Int) (n : Nat)
  | unq6SOf (v : Int) (n : Nat)
  | finishUOf (x : Int)
  | finishSOf (x : Int)
  | rdres
  deriving DecidableEq, Repr

/-- A 32-bit host write of `v` to `r`. -/
def regWrite (r : HostReg) (v : Word) : HostEvent := .write 32 (BitVec.ofNat 10 (regOffset r)) v

/-- A 32-bit host read of `r`. -/
def regRead (r : HostReg) : HostEvent := .read 32 (BitVec.ofNat 10 (regOffset r))

/-- `wr CMD, w` (R78), the word modulo 2^32 (assumption 17). -/
def wrCmd (w : Nat) : List HostEvent := [regWrite .cmd (BitVec.ofNat 32 w)]

/-- `wr ARG0, mask_32(v)` (R79). -/
def wrArg0 (v : Int) : List HostEvent := [regWrite .arg0 (BitVec.ofInt 32 v)]

/-- `wr ARG1, mask_32(v)` (R79). -/
def wrArg1 (v : Int) : List HostEvent := [regWrite .arg1 (BitVec.ofInt 32 v)]

/-- The four BLK_Wk writes of `ldblk128 X` (R79). -/
def loadBlock (x : Block) : List HostEvent :=
  [regWrite (.blkW 0) (wordOf x 0), regWrite (.blkW 1) (wordOf x 1), regWrite (.blkW 2) (wordOf x 2),
   regWrite (.blkW 3) (wordOf x 3)]

/-- The block of 16 bytes in memory order, byte k in block bits 8k+7..8k (R8, R52); any other number of
bytes is no block (93 U19). -/
def blockOfBytes (bytes : List Byte) : Option Block :=
  if bytes.length = 16 then
    some (BitVec.ofNat 128 (bytes.foldr (fun b acc => b.toNat + 256 * acc) 0))
  else none

/-- The host accesses of a line (R78, R79); none for an `ldblk` of other than 16 bytes, the one line that is no
line of the syntax. DESIGN CHOICE (assumption 17): a number, or the word R78's expression gives, is taken modulo
2^32, so one too big for its 32-bit word is a line too; the spec says only "a 32-bit value". -/
def expandLine : HostLine → Option (List HostEvent)
  | .wr r v => some [regWrite r (BitVec.ofNat 32 v)]
  | .rd r => some [regRead r]
  | .rdAt off => some [.read 32 off]
  | .wrAt off v => some [.write 32 off (BitVec.ofNat 32 v)]
  | .nop => some (wrCmd 0x0)
  | .rdbit off => some (wrCmd ((off <<< 4) ||| 0x1))
  | .rdbits off len => some (wrCmd ((len <<< 11) ||| (off <<< 4) ||| 0x2))
  | .decBc6hU => some (wrCmd 0x3)
  | .decBc6hS => some (wrCmd 0x4)
  | .decBc7 => some (wrCmd 0x5)
  | .modeqBc6h => some (wrCmd 0x6)
  | .modeqBc7 => some (wrCmd 0x16)
  | .partq ns p i => some (wrCmd ((i <<< 12) ||| (p <<< 6) ||| (ns <<< 4) ||| 0x7))
  | .interp idx prec => some (wrCmd ((prec <<< 8) ||| (idx <<< 4) ||| 0x8))
  | .unq6U n => some (wrCmd ((n <<< 4) ||| 0x9))
  | .unq6S n => some (wrCmd ((1 <<< 9) ||| (n <<< 4) ||| 0x9))
  | .finishU => some (wrCmd 0xA)
  | .finishS => some (wrCmd 0x1A)
  | .expand7 n v => some (wrCmd ((v <<< 8) ||| (n <<< 4) ||| 0xB))
  | .ldblk bytes => (blockOfBytes bytes).map loadBlock
  | .ldblk128 x => some (loadBlock x)
  | .interpOf e0 e1 idx prec =>
    some (wrArg0 e0 ++ wrArg1 e1 ++ wrCmd ((prec <<< 8) ||| (idx <<< 4) ||| 0x8))
  | .unq6UOf v n => some (wrArg0 v ++ wrCmd ((n <<< 4) ||| 0x9))
  | .unq6SOf v n => some (wrArg0 v ++ wrCmd ((1 <<< 9) ||| (n <<< 4) ||| 0x9))
  | .finishUOf x => some (wrArg0 x ++ wrCmd 0xA)
  | .finishSOf x => some (wrArg0 x ++ wrCmd 0x1A)
  | .rdres => some [regRead .resLo, regRead .resHi]

/-- The name of a register in a host program (R78). -/
def regText : HostReg → String
  | .cmd => "CMD"
  | .status => "STATUS"
  | .arg0 => "ARG0"
  | .arg1 => "ARG1"
  | .resLo => "RES_LO"
  | .resHi => "RES_HI"
  | .blkW k => "BLK_W" ++ toString k.val
  | .outf k => "OUTF[" ++ toString k.val ++ "]"
  | .outbW k => "OUTB_W" ++ toString k.val

/-- Operands of a line, separated by commas. -/
def argText (args : List String) : String := String.intercalate ", " args

/-- The text of a line (R78, R79), numbers in decimal. -/
def lineText : HostLine → String
  | .wr r v => "wr " ++ argText [regText r, toString v]
  | .rd r => "rd " ++ regText r
  | .rdAt off => "rd " ++ toString off.toNat
  | .wrAt off v => "wr " ++ argText [toString off.toNat, toString v]
  | .nop => "nop"
  | .rdbit off => "rdbit " ++ toString off
  | .rdbits off len => "rdbits " ++ argText [toString off, toString len]
  | .decBc6hU => "dec.bc6h.u"
  | .decBc6hS => "dec.bc6h.s"
  | .decBc7 => "dec.bc7"
  | .modeqBc6h => "modeq.bc6h"
  | .modeqBc7 => "modeq.bc7"
  | .partq ns p i => "partq " ++ argText [toString ns, toString p, toString i]
  | .interp idx prec => "interp " ++ argText [toString idx, toString prec]
  | .unq6U n => "unq6.u " ++ toString n
  | .unq6S n => "unq6.s " ++ toString n
  | .finishU => "finish.u"
  | .finishS => "finish.s"
  | .expand7 n v => "expand7 " ++ argText [toString n, toString v]
  | .ldblk bytes => "ldblk " ++ argText (bytes.map fun b => toString b.toNat)
  | .ldblk128 x => "ldblk128 " ++ toString x.toNat
  | .interpOf e0 e1 idx prec => "interp " ++ argText [toString e0, toString e1, toString idx, toString prec]
  | .unq6UOf v n => "unq6.u " ++ argText [toString v, toString n]
  | .unq6SOf v n => "unq6.s " ++ argText [toString v, toString n]
  | .finishUOf x => "finish.u " ++ toString x
  | .finishSOf x => "finish.s " ++ toString x
  | .rdres => "rdres"

/-- The host accesses of a program, if every line is one of the syntax. -/
def expandProgram : List HostLine → Option (List HostEvent)
  | [] => some []
  | l :: rest =>
    match expandLine l, expandProgram rest with
    | some a, some b => some (a ++ b)
    | _, _ => none

/-- The state with a host program as its next accesses: how a program comes to run (assumption 5). -/
def State.withProgram (s : State) (p : List HostEvent) : State := { s with hostIn := p ++ s.hostIn }

end Sys2Proof.Machine
end

