-- ==== Sys2Proof/Safety.lean ====
section
/-! DEFINITION. The terms the claims use: what a fault entry is (R310, R313), what a decode command leaves
(R282, R289), the legal states of the instance (R22, R33), and the values the spec's pseudocode gives a
decoded texel (R284, R285). -/

namespace Sys2Proof.Machine

/-! ## Faults -/

/-- `t` is `s` after `raise Fault(code)` (R310, R313): FAULT is 1, CAUSE is the code, every other STATUS bit
and every other part of the state is unchanged. -/
def FaultEntered (s t : State) (code : BitVec 4) : Prop :=
  t = { s with status := t.status } ∧ t.status.getLsbD 0 = true ∧ t.status.extractLsb' 4 4 = code ∧
  ∀ j, j < 32 → j ≠ 0 → (j < 4 ∨ 8 ≤ j) → t.status.getLsbD j = s.status.getLsbD j

/-- The outcome `o` of a command or access is the fault entry from `s` with this cause code (R311). -/
def Faults (o : Out) (s : State) (code : BitVec 4) : Prop := ∃ t, o = .next t ∧ FaultEntered s t code

/-! ## The word of a command -/

/-- The word `w` spells instruction `i` when `clear` holds, its reserved bits being 0, and spells none otherwise
(R70, R74, R75): a host write of it to CMD of an instance that is not faulted stores it and runs `i`, or raises
RESERVED_FIELD. -/
def Spells (w : Word) (clear : Prop) (i : Instr) : Prop :=
  ∀ (s : State) (rest : List HostEvent), s.faulted = false →
    (clear → step { s with hostIn := .write 32 0 w :: rest } = exec i { s with cmd := w, hostIn := rest }) ∧
    (¬ clear → Faults (step { s with hostIn := .write 32 0 w :: rest }) { s with cmd := w, hostIn := rest } 2)

/-! ## Decode commands -/

/-- STATUS `w'` is `w` with INVALID written `b` and no other bit changed (R282). -/
def InvalidWritten (w w' : Word) (b : Bool) : Prop :=
  w'.getLsbD 1 = b ∧ ∀ j, j < 32 → j ≠ 1 → w'.getLsbD j = w.getLsbD j

/-- A BC6H decode that completes changes OUTF and INVALID only (R282, R289); no ParsedBlock is left (R34). -/
def DecodedBc6h (s t : State) (invalid : Bool) : Prop :=
  t = { s with outf := t.outf, status := t.status, parsed := none } ∧ InvalidWritten s.status t.status invalid

/-- A BC7 decode that completes changes OUTB and INVALID only (R282, R289). -/
def DecodedBc7 (s t : State) (invalid : Bool) : Prop :=
  t = { s with outb := t.outb, status := t.status, parsed := none } ∧ InvalidWritten s.status t.status invalid

/-- The word R284 gives channel `c` of texel `i` of the BC6H block of mode `m` with raw fields `f`. -/
def bc6hTexel (enc : NegEncoding) (signed : Bool) (m : Bc6hMode) (f : Bc6hFields) (i : Nat) (c : Chan) : Word :=
  let d := bc6hDesc m
  let part := if d.ns = 2 then f.d.toNat else 0
  let sub := partitionTable d.ns part i
  let u (k : Nat) : Int := unquantize6 (bc6hChannel d signed f k c) d.eb signed
  let x := interpolate (u (2 * sub)) (u (2 * sub + 1)) (colorIndex f.index.toNat i d.iw d.ns part) d.iw
  widenHalf (finishUnquantize enc x signed)

/-- The index and precision that drive channel `c` of texel `i` (R206): the table of modes 4 and 5, and the
primary field in every other mode. -/
def bc7IndexOf (m : Bc7Mode) (f : Bc7Fields) (i : Nat) (c : Chan) : Nat × Nat :=
  let d := bc7Desc m
  let i1 := colorIndex f.idx1.toNat i d.ib d.ns f.part.toNat
  let i2 := colorIndex f.idx2.toNat i d.ib2 1 0
  match m with
  | .m4 => if (c = .a ↔ f.isb = 0) then (i2, 3) else (i1, 2)
  | .m5 => if c = .a then (i2, 2) else (i1, 2)
  | .m0 | .m1 | .m2 | .m3 | .m6 | .m7 => (i1, d.ib)

/-- Channel `c` of texel `i` of a BC7 block before rotation (R285). -/
def bc7Value (m : Bc7Mode) (f : Bc7Fields) (i : Nat) (c : Chan) : Int :=
  let sub := partitionTable (bc7Desc m).ns f.part.toNat i
  interpolate (bc7Channel (bc7Desc m) f (2 * sub) c) (bc7Channel (bc7Desc m) f (2 * sub + 1) c)
    (bc7IndexOf m f i c).1 (bc7IndexOf m f i c).2

/-- The channel whose value rotation ROT puts into channel `c` (R288). -/
def rotatedFrom (rot : BitVec 2) (c : Chan) : Chan :=
  if rot = 1 then (match c with | .r => .a | .a => .r | .g => .g | .b => .b)
  else if rot = 2 then (match c with | .g => .a | .a => .g | .r => .r | .b => .b)
  else if rot = 3 then (match c with | .b => .a | .a => .b | .r => .r | .g => .g)
  else c

/-! ## Which commands write what (R28) -/

/-- The commands that write RES (R24, R28). -/
def writesRes : Instr → Bool
  | .rdbit _ | .rdbits _ _ | .modeq _ | .partq _ _ _ | .interp _ _ | .unq6 _ _ | .finish _ | .expand7 _ _ => true
  | _ => false

/-- The instructions that decode a BC6H block, and so write OUTF and INVALID (R26, R28). -/
def decodesBc6h (i : Instr) : Bool :=
  match i, encode i with
  | .decbc6u, _ | .decbc6s, _ => true
  | _, .bc6hBlock _ => true
  | _, _ => false

/-- The instructions that decode a BC7 block, and so write OUTB and INVALID (R27, R28). -/
def decodesBc7 (i : Instr) : Bool :=
  match i, encode i with
  | .decbc7, _ => true
  | _, .bc7Block _ => true
  | _, _ => false

/-! ## Field positions and float values -/

/-- The fields of a BC7 block `b` of mode `m` start at these block bits, with the widths of R144; endpoint
values follow one another (R103). -/
def bc7FieldsAt (m : Bc7Mode) (part rot isb r g bl a p i1 i2 : Nat) (b : Block) : Prop :=
  let d := bc7Desc m
  let f := bc7FieldsOf m b
  f.part.toNat = memRead b part d.pb ∧ f.rot.toNat = memRead b rot d.rb ∧ f.isb.toNat = memRead b isb d.isb ∧
  (∀ k, k < 2 * d.ns →
    (f.endpoint k).r.toNat = memRead b (r + k * d.cb) d.cb ∧
    (f.endpoint k).g.toNat = memRead b (g + k * d.cb) d.cb ∧
    (f.endpoint k).b.toNat = memRead b (bl + k * d.cb) d.cb ∧
    (f.endpoint k).a.toNat = memRead b (a + k * d.ab) d.ab) ∧
  f.p.toNat = memRead b p d.pCount ∧ f.idx1.toNat = memRead b i1 d.len1 ∧ f.idx2.toNat = memRead b i2 d.len2

/-- The value of a finite IEEE-754 pattern with `nf` fraction bits and `ne` exponent bits, in units of the
smallest subnormal of its format (R255). -/
def floatValue (nf ne : Nat) {w : Nat} (x : BitVec w) : Int :=
  let frac : Nat := (x.extractLsb' 0 nf).toNat
  let exp : Nat := (x.extractLsb' nf ne).toNat
  let mag : Nat := if exp = 0 then frac else (2 ^ nf + frac) * 2 ^ (exp - 1)
  if x.getLsbD (nf + ne) then -(mag : Int) else (mag : Int)

/-! ## The register window (R56) -/

/-- The offsets R56 maps, and R55 allows a 32-bit access to. -/
def MappedOffset (o : Nat) : Prop :=
  o % 4 = 0 ∧ (o < 0x018 ∨ (0x020 ≤ o ∧ o < 0x030) ∨ (0x100 ≤ o ∧ o < 0x1C0) ∨ (0x200 ≤ o ∧ o < 0x240))

/-- The offsets R56 marks RW: CMD, ARG0, ARG1 and BLK_W0..BLK_W3. -/
def WritableOffset (o : Nat) : Prop :=
  o = 0x000 ∨ o = 0x008 ∨ o = 0x00C ∨ o = 0x020 ∨ o = 0x024 ∨ o = 0x028 ∨ o = 0x02C

/-! ## Legal states -/

/-- A STATUS the instance can hold: the reserved bits are 0, CAUSE is a code of R311, and CAUSE is 0 exactly
when FAULT is 0 (R22, R311). -/
def legalStatus (w : Word) : Bool :=
  (w &&& 0xFFFFFF0C == 0) && (statusCause w).toNat ≤ 5 && (statusFault w == (statusCause w != 0))

/-- A state between two host accesses: a legal STATUS and no ParsedBlock (R33, R36). -/
def State.legal (s : State) : Bool := legalStatus s.status && s.parsed.isNone

/-- A host event that is not the reset input. -/
def HostEvent.isAccess : HostEvent → Bool
  | .write _ _ _ | .read _ _ => true
  | .reset _ => false

/-- A safe state: legal, and no fault has been raised since the last reset. -/
def State.safe (s : State) : Bool := s.legal && !s.faulted

end Sys2Proof.Machine
end

