-- ==== Sys2Proof/Certificates/Slice0/Obligations.lean ====
section
/-! DEFINITION. The statements for the provers. Each docstring names the rule of the spec it formalises. In a
statement about a step, `{ s with hostIn := e :: rest }` is any state whose next host event is `e`. -/

open Sys2Proof Sys2Proof.Machine

/-! ## Encoding -/

/-- Words and blocks the spec prints, with the instruction each stands for (R122, R124, R155, R156, R234,
R256, R260, R264, R183, R210). -/
def Obligations.PrintedWordsDecode : Prop :=
  decodeCommand 0x00000000 = .ok .nop ∧
  decodeCommand 0x00000081 = .ok (.rdbit 8) ∧
  decodeCommand 0x000043C2 = .ok (.rdbits 60 8) ∧
  decodeCommand 0x00000003 = .ok .decbc6u ∧
  decodeCommand 0x00000004 = .ok .decbc6s ∧
  decodeCommand 0x00000005 = .ok .decbc7 ∧
  decodeCommand 0x00000016 = .ok (.modeq .bc7) ∧
  decodeCommand 0x0000F367 = .ok (.partq 2 13 15) ∧
  decodeCommand 0x00000378 = .ok (.interp 7 3) ∧
  decodeCommand 0x000002A9 = .ok (.unq6 10 true) ∧
  decodeCommand 0x0000001A = .ok (.finish true) ∧
  decodeCommand 0x0000105B = .ok (.expand7 5 16) ∧
  decodeCommand 0xFFFFFFFF = .ok (.reservedF 0xFFFFFFF) ∧
  decodeCommand 0x80000002 = .error .reservedField ∧
  decodeBc6hBlock 0xC0002FF80091D78B =
    .bc6hMode0B ⟨⟨0xABC, 0x123, 0x800⟩, ⟨0xFF, 0x01, 0x80⟩, ⟨0, 0, 0⟩, ⟨0, 0, 0⟩, 0, 0⟩ ∧
  decodeBc7Block 0x90FFFC03F8003FC0 =
    .bc7Mode6 ⟨0, 0, 0, ⟨0x7F, 0x40, 0x00, 0x7F⟩, ⟨0x00, 0x3F, 0x7F, 0x10⟩, ⟨0, 0, 0, 0⟩, ⟨0, 0, 0, 0⟩,
      ⟨0, 0, 0, 0⟩, ⟨0, 0, 0, 0⟩, 1, 0, 0⟩

/-- Decoding the word of a command, or of a reserved opcode, gives it back, with every operand at every value
(R71, R72, R75): no bit of a command's encoding is dropped. -/
def Obligations.CommandsSurviveEncoding : Prop :=
  ∀ (i : Instr) (w : Word), encode i = .command w → decodeCommand w = .ok i

/-- Decoding the block of a well-formed BC6H instruction, a reserved selector included, gives it back (R83,
R99, R100, R173). -/
def Obligations.Bc6hBlocksSurviveEncoding : Prop :=
  ∀ (i : Instr) (b : Block), i.wf = true → encode i = .bc6hBlock b → decodeBc6hBlock b = i

/-- Decoding the block of a well-formed BC7 instruction, the reserved mode included, gives it back (R102,
R104, R105). -/
def Obligations.Bc7BlocksSurviveEncoding : Prop :=
  ∀ (i : Instr) (b : Block), i.wf = true → encode i = .bc7Block b → decodeBc7Block b = i

/-- What a word or block decodes to is well-formed and encodes to that word or block: every command word that
is not rejected, and every 128-bit block in either family, spells exactly one instruction (R74, R82, R106). -/
def Obligations.EveryEncodingSpellsOneInstruction : Prop :=
  ∀ (x : Encoded) (i : Instr), decode x = .ok i → i.wf = true ∧ encode i = x

/-- R74 and the reserved column of R71: below opcode 0xC a command word is rejected exactly when a bit the
format lists as reserved is 1, RDBIT's LEN included; a host write of such a word raises RESERVED_FIELD. -/
def Obligations.ReservedBitsAreRejected : Prop :=
  (∀ w : Word, decodeCommand w = .error .reservedField ↔
    ((w.extractLsb' 0 4 = 0x0 ∨ w.extractLsb' 0 4 = 0x3 ∨ w.extractLsb' 0 4 = 0x4 ∨ w.extractLsb' 0 4 = 0x5) ∧
      w.extractLsb' 4 28 ≠ 0) ∨
    (w.extractLsb' 0 4 = 0x1 ∧ w.extractLsb' 11 21 ≠ 0) ∨
    (w.extractLsb' 0 4 = 0x2 ∧ w.extractLsb' 18 14 ≠ 0) ∨
    ((w.extractLsb' 0 4 = 0x6 ∨ w.extractLsb' 0 4 = 0xA) ∧ w.extractLsb' 5 27 ≠ 0) ∨
    ((w.extractLsb' 0 4 = 0x7 ∨ w.extractLsb' 0 4 = 0xB) ∧ w.extractLsb' 16 16 ≠ 0) ∨
    (w.extractLsb' 0 4 = 0x8 ∧ w.extractLsb' 11 21 ≠ 0) ∨
    (w.extractLsb' 0 4 = 0x9 ∧ w.extractLsb' 10 22 ≠ 0)) ∧
  (∀ (s : State) (w : Word) (rest : List HostEvent), s.faulted = false →
    decodeCommand w = .error .reservedField →
    Faults (step { s with hostIn := .write 32 0 w :: rest }) { s with cmd := w, hostIn := rest } 2)

/-- R81 and R82: the selector of a BC6H block, and exactly the four selectors 0x13, 0x17, 0x1B and 0x1F are
invalid; a block that has one decodes to that reserved instruction. -/
def Obligations.Bc6hSelectorSpace : Prop :=
  ∀ b : Block,
    (b.extractLsb' 0 2 = 0 → bc6hSelector b = (0, 2)) ∧
    (b.extractLsb' 0 2 = 1 → bc6hSelector b = (1, 2)) ∧
    (2 ≤ (b.extractLsb' 0 2).toNat → bc6hSelector b = ((b.extractLsb' 0 5).toNat, 5)) ∧
    ((∃ m, bc6hModeOfId (bc6hSelector b).1 = some m) ↔
      ¬ (b.extractLsb' 0 2 = 3 ∧ 4 ≤ (b.extractLsb' 2 3).toNat)) ∧
    (∀ m, bc6hModeOfId (bc6hSelector b).1 = some m →
      decodeBc6hBlock b = .ofBc6h m (bc6hFieldsOf m b) ∧ bc6hModeId m = (bc6hSelector b).1 ∧
      (bc6hDesc m).hdr = (bc6hSelector b).2) ∧
    (∀ k, b.extractLsb' 0 5 = BitVec.ofNat 5 (bc6hReservedId k) →
      decodeBc6hBlock b = .ofBc6hReserved k (b.extractLsb' 5 123))

/-- R101: the BC7 mode is the position of the lowest set bit of byte 0, and 8, the reserved mode, when byte 0
is 0; the block decodes to the instruction of its mode. -/
def Obligations.Bc7SelectorIsTheLowestSetBit : Prop :=
  ∀ b : Block,
    (∀ m, m < 8 → (bc7Selector b = m ↔ b.getLsbD m = true ∧ ∀ k, k < m → b.getLsbD k = false)) ∧
    (bc7Selector b = 8 ↔ b.extractLsb' 0 8 = 0) ∧ bc7Selector b ≤ 8 ∧
    (∀ m : Bc7Mode, bc7Selector b = bc7ModeId m →
      decodeBc7Block b = .ofBc7 m (bc7FieldsOf m b) ∧ (bc7Desc m).hdr = bc7ModeId m + 1) ∧
    (bc7Selector b = 8 → decodeBc7Block b = .bc7Reserved (b.extractLsb' 8 120))

/-- The positions of R98 that hold in every BC6H layout: E[0]'s low min(EB, 10) bits at 5, 15 and 25, E[1]'s
at 35, 45 and 55, with 2 subsets E[2] and E[3] red at 65 and 71, the low 4 bits of g2, g3 and b2 at 41, 51
and 61, the partition index at 77, and the index field from IOFF to bit 127 (R99). -/
def Obligations.Bc6hFixedPositions : Prop :=
  ∀ (m : Bc6hMode) (b : Block), let d := bc6hDesc m; let f := bc6hFieldsOf m b
    f.e0.r.toNat % 2 ^ min d.eb 10 = memRead b 5 (min d.eb 10) ∧
    f.e0.g.toNat % 2 ^ min d.eb 10 = memRead b 15 (min d.eb 10) ∧
    f.e0.b.toNat % 2 ^ min d.eb 10 = memRead b 25 (min d.eb 10) ∧
    f.e1.r.toNat = memRead b 35 (d.stored .r) ∧
    f.e1.g.toNat = memRead b 45 (d.stored .g) ∧
    f.e1.b.toNat = memRead b 55 (d.stored .b) ∧
    f.index.toNat = memRead b d.ioff (128 - d.ioff) ∧
    (d.ns = 2 →
      f.e2.r.toNat = memRead b 65 (d.stored .r) ∧ f.e3.r.toNat = memRead b 71 (d.stored .r) ∧
      f.e2.g.toNat % 16 = memRead b 41 4 ∧ f.e3.g.toNat % 16 = memRead b 51 4 ∧
      f.e2.b.toNat % 16 = memRead b 61 4 ∧ f.d.toNat = memRead b 77 5)

/-- R103: the first block bit of each field of each BC7 mode, as the table prints it; the endpoint values of a
channel follow one another, CB (or AB) bits each. Columns: partition, rotation, ISB, R, G, B, A, P-bits,
index 1, index 2, with 0 for an absent field. -/
def Obligations.Bc7FieldPositions : Prop :=
  ∀ b : Block,
    bc7FieldsAt .m0 1 0 0 5 29 53 0 77 83 0 b ∧ bc7FieldsAt .m1 2 0 0 8 32 56 0 80 82 0 b ∧
    bc7FieldsAt .m2 3 0 0 9 39 69 0 0 99 0 b ∧ bc7FieldsAt .m3 4 0 0 10 38 66 0 94 98 0 b ∧
    bc7FieldsAt .m4 0 5 7 8 18 28 38 0 50 81 b ∧ bc7FieldsAt .m5 0 6 0 8 22 36 50 0 66 97 b ∧
    bc7FieldsAt .m6 0 0 0 7 21 35 49 63 65 0 b ∧ bc7FieldsAt .m7 8 0 0 14 34 54 74 94 98 0 b

/-! ## Tables -/

/-- R142 and R145, with the block sums of R144: the descriptors are consistent. -/
def Obligations.DescriptorsAreConsistent : Prop :=
  (∀ m : Bc6hMode, let d := bc6hDesc m
    (d.ns = 2 ↔ d.pbits = 5) ∧ (d.ns = 1 ↔ d.pbits = 0) ∧ (d.ns = 2 → d.ioff = 82 ∧ d.iw = 3) ∧
    (d.ns = 1 → d.ioff = 65 ∧ d.iw = 4) ∧ 6 ≤ d.eb ∧ d.eb ≤ 16 ∧
    (d.transformed = true → ∀ c, c ≠ Chan.a → 4 ≤ d.delta c ∧ d.delta c ≤ d.eb) ∧
    (d.transformed = false ↔ m = .m1E ∨ m = .m03) ∧
    d.hdr + 3 * d.eb + (2 * d.ns - 1) * (d.stored .r + d.stored .g + d.stored .b) + d.pbits = d.ioff) ∧
  (bc6hDesc .m1E).ns = 2 ∧ (bc6hDesc .m1E).eb = 6 ∧ (bc6hDesc .m03).ns = 1 ∧ (bc6hDesc .m03).eb = 10 ∧
  (∀ m : Bc7Mode, let d := bc7Desc m
    (d.ib2 > 0 ↔ d.rb = 2) ∧ (d.rb = 2 ↔ m = .m4 ∨ m = .m5) ∧ (d.isb = 1 ↔ m = .m4) ∧
    (d.ab > 0 ↔ m = .m4 ∨ m = .m5 ∨ m = .m6 ∨ m = .m7) ∧ (d.ns > 1 → d.pb > 0) ∧
    (d.ns = 3 ↔ m = .m0 ∨ m = .m2) ∧ (d.ns = 2 ↔ m = .m1 ∨ m = .m3 ∨ m = .m7) ∧
    (let up := if d.pk = .none then 0 else 1;
      5 ≤ d.cb + up ∧ d.cb + up ≤ 8 ∧ (d.ab > 0 → 6 ≤ d.ab + up ∧ d.ab + up ≤ 8)) ∧
    d.hdr + d.pb + d.rb + d.isb + 2 * d.ns * (3 * d.cb + d.ab) + d.pCount + d.len1 + d.len2 = 128)

/-- R151: texel 0 is in subset 0, each anchor lies in the subset it anchors, so the anchors are distinct, and
every subset has a texel. -/
def Obligations.PartitionTablesAreConsistent : Prop :=
  ∀ p, p < 64 →
    romP2 p 0 = 0 ∧ romP3 p 0 = 0 ∧
    romP2 p (romA2.getD p 0) = 1 ∧ romP3 p (romA31.getD p 0) = 1 ∧ romP3 p (romA32.getD p 0) = 2 ∧
    (∀ i, i < 16 → romP2 p i < 2 ∧ romP3 p i < 3) ∧
    (anchors 2 p).Nodup ∧ (anchors 3 p).Nodup ∧ (∀ a ∈ anchors 2 p ++ anchors 3 p, a < 16) ∧
    (∀ k, k < 2 → ∃ i, i < 16 ∧ romP2 p i = k) ∧ (∀ k, k < 3 → ∃ i, i < 16 ∧ romP3 p i = k)

/-! ## Commands -/

/-- R318: NOP has no effect; 0 is its only word, and a host write of 0 to CMD changes only CMD. -/
def Obligations.NopChangesNothing : Prop :=
  (∀ s : State, exec .nop s = .next s) ∧
  (∀ w : Word, w.extractLsb' 0 4 = 0x0 → Spells w (w.extractLsb' 4 28 = 0) .nop) ∧
  (∀ (s : State) (rest : List HostEvent), s.faulted = false →
    step { s with hostIn := .write 32 0 0 :: rest } = .next { s with cmd := 0, hostIn := rest })

/-- R122: RDBIT writes bit OFF of BLK to RES, zero-extended, and changes nothing else; a word of it with a 1 in
bits 31:11 raises RESERVED_FIELD. -/
def Obligations.RdbitReadsOneBit : Prop :=
  (∀ (s : State) (off : BitVec 7),
    exec (.rdbit off) s = .next { s with res := if s.blk.getLsbD off.toNat then 1 else 0 }) ∧
  (∀ w : Word, w.extractLsb' 0 4 = 0x1 →
    Spells w (w.extractLsb' 11 21 = 0) (.rdbit (w.extractLsb' 4 7)))

/-- R124, with R121 and R123: in range RDBITS writes the sum of the LEN bits from OFF, the lowest first, to
RES and changes nothing else; out of range it raises READ_RANGE. -/
def Obligations.RdbitsReadsTheField : Prop :=
  (∀ (s : State) (off len : BitVec 7), 1 ≤ len.toNat → len.toNat ≤ 64 → off.toNat + len.toNat ≤ 128 →
    let v := ((List.range len.toNat).map fun k => (s.blk.getLsbD (off.toNat + k)).toNat * 2 ^ k).sum
    exec (.rdbits off len) s = .next { s with res := BitVec.ofNat 64 v }) ∧
  (∀ (s : State) (off len : BitVec 7),
    len.toNat = 0 ∨ len.toNat > 64 ∨ off.toNat + len.toNat > 128 → Faults (exec (.rdbits off len) s) s 3) ∧
  (∀ w : Word, w.extractLsb' 0 4 = 0x2 →
    Spells w (w.extractLsb' 18 14 = 0) (.rdbits (w.extractLsb' 4 7) (w.extractLsb' 11 7)))

/-- R53: every view of the block is a slice of the one value BLK: a wider RDBITS gives a narrower one as its
low bits, RDBIT is the RDBITS of one bit, and host word k is the RDBITS of 32 bits at 32k. -/
def Obligations.BlockViewsAgree : Prop :=
  (∀ (s : State) (off m n : BitVec 7) (t u : State), 1 ≤ m.toNat → m.toNat ≤ n.toNat → n.toNat ≤ 64 →
    off.toNat + n.toNat ≤ 128 → exec (.rdbits off n) s = .next t → exec (.rdbits off m) s = .next u →
    u.res.toNat = t.res.toNat % 2 ^ m.toNat) ∧
  (∀ (s : State) (off : BitVec 7), exec (.rdbits off 1) s = exec (.rdbit off) s) ∧
  (∀ (s : State) (k : Fin 4) (t : State), exec (.rdbits (BitVec.ofNat 7 (32 * k.val)) 32) s = .next t →
    readReg (.blkW k) s = t.res.setWidth 32)

/-- R155: MODEQ writes the packed descriptor of BLK's mode to RES, bit for bit, and changes nothing else; an
invalid BC6H selector gives MODE + 0x5000 and the BC7 reserved mode 0x8008. -/
def Obligations.ModeqReportsTheDescriptor : Prop :=
  (∀ (s : State) (m : Bc6hMode), bc6hModeOfId (bc6hSelector s.blk).1 = some m →
    let v : BitVec 64 := BitVec.ofNat 8 (bc6hDesc m).ext ++ 0#2 ++
      (if (bc6hDesc m).ns = 2 then (s.blk.extractLsb' 77 5).setWidth 6 else 0#6) ++
      BitVec.ofNat 4 (bc6hDesc m).iw ++ BitVec.ofNat 4 (bc6hDesc m).dB ++ BitVec.ofNat 4 (bc6hDesc m).dG ++
      BitVec.ofNat 4 (bc6hDesc m).dR ++ 0#2 ++ BitVec.ofBool (bc6hDesc m).transformed ++
      BitVec.ofNat 5 (bc6hDesc m).eb ++ 0#2 ++ BitVec.ofNat 2 (bc6hDesc m).ns ++
      BitVec.ofNat 4 (bc6hDesc m).pbits ++ BitVec.ofNat 4 (bc6hDesc m).hdr ++ 0#3 ++ 1#1 ++ 0#3 ++
      BitVec.ofNat 5 (bc6hModeId m)
    exec (.modeq .bc6h) s = .next { s with res := v }) ∧
  (∀ s : State, bc6hModeOfId (bc6hSelector s.blk).1 = none →
    exec (.modeq .bc6h) s = .next { s with res := BitVec.ofNat 64 ((bc6hSelector s.blk).1 + 0x5000) }) ∧
  (∀ (s : State) (m : Bc7Mode), bc7Selector s.blk = bc7ModeId m →
    let v : BitVec 64 := 0#3 ++ (bc7FieldsOf m s.blk).isb ++ 0#2 ++ (bc7FieldsOf m s.blk).rot ++ 0#2 ++
      (bc7FieldsOf m s.blk).part ++ 0#4 ++ BitVec.ofNat 4 (bc7Desc m).ib2 ++ BitVec.ofNat 4 (bc7Desc m).ib ++
      0#1 ++ BitVec.ofNat 1 (bc7Desc m).isb ++ BitVec.ofNat 2 (bc7Desc m).pk.code ++
      BitVec.ofNat 4 (bc7Desc m).ab ++ BitVec.ofNat 4 (bc7Desc m).cb ++ BitVec.ofNat 2 (bc7Desc m).rb ++
      BitVec.ofNat 2 (bc7Desc m).ns ++ BitVec.ofNat 4 (bc7Desc m).pb ++ BitVec.ofNat 4 (bc7ModeId m + 1) ++
      0#3 ++ 1#1 ++ 0#4 ++ BitVec.ofNat 4 (bc7ModeId m)
    exec (.modeq .bc7) s = .next { s with res := v }) ∧
  (∀ s : State, bc7Selector s.blk = 8 → exec (.modeq .bc7) s = .next { s with res := 0x8008 }) ∧
  (∀ w : Word, w.extractLsb' 0 4 = 0x6 →
    Spells w (w.extractLsb' 5 27 = 0) (.modeq (if w.getLsbD 4 then .bc7 else .bc6h)))

/-- R156: in its domain PARTQ writes the packed subset, anchors and anchor flag to RES and changes nothing
else; with NS = 0, or NS = 1 and P ≠ 0, it raises BAD_OPERAND. -/
def Obligations.PartqReportsSubsetAndAnchors : Prop :=
  (∀ (s : State) (ns : BitVec 2) (p : BitVec 6) (i : BitVec 4), ns ≠ 0 → (ns = 1 → p = 0) →
    let sub := if ns = 2 then romP2 p.toNat i.toNat else if ns = 3 then romP3 p.toNat i.toNat else 0
    let a1 := if ns = 2 then romA2.getD p.toNat 0 else if ns = 3 then romA31.getD p.toNat 0 else 0
    let a2 := if ns = 3 then romA32.getD p.toNat 0 else 0
    let own := if sub = 0 then 0 else if sub = 1 then a1 else a2
    let v : BitVec 64 := 0#47 ++ BitVec.ofBool (own == i.toNat) ++ BitVec.ofNat 4 a2 ++ BitVec.ofNat 4 a1 ++ 0#6 ++
      BitVec.ofNat 2 sub
    exec (.partq ns p i) s = .next { s with res := v }) ∧
  (∀ (s : State) (ns : BitVec 2) (p : BitVec 6) (i : BitVec 4), ns = 0 ∨ (ns = 1 ∧ p ≠ 0) →
    Faults (exec (.partq ns p i) s) s 4) ∧
  (∀ w : Word, w.extractLsb' 0 4 = 0x7 →
    Spells w (w.extractLsb' 16 16 = 0) (.partq (w.extractLsb' 4 2) (w.extractLsb' 6 6) (w.extractLsb' 12 4)))

/-- R234, with R77, R231 and R232: in its domain INTERP writes the rounded weighted sum of ARG0 and ARG1,
sign-extended, to RES and changes nothing else; outside it raises BAD_OPERAND. -/
def Obligations.InterpBlendsTheOperands : Prop :=
  (∀ (s : State) (idx : BitVec 4) (prec : BitVec 3), prec = 2 ∨ prec = 3 ∨ prec = 4 →
    idx.toNat < 2 ^ prec.toNat →
    let w : Int := (if prec = 2 then [0, 21, 43, 64] else if prec = 3 then [0, 9, 18, 27, 37, 46, 55, 64]
      else [0, 4, 9, 13, 17, 21, 26, 30, 34, 38, 43, 47, 51, 55, 60, 64]).getD idx.toNat 0
    let v := ((64 - w) * s.arg0.toInt + w * s.arg1.toInt + 32) / 64
    exec (.interp idx prec) s = .next { s with res := BitVec.ofInt 64 v }) ∧
  (∀ (s : State) (idx : BitVec 4) (prec : BitVec 3),
    (prec ≠ 2 ∧ prec ≠ 3 ∧ prec ≠ 4) ∨ 2 ^ prec.toNat ≤ idx.toNat → Faults (exec (.interp idx prec) s) s 4) ∧
  (∀ w : Word, w.extractLsb' 0 4 = 0x8 →
    Spells w (w.extractLsb' 11 21 = 0) (.interp (w.extractLsb' 4 4) (w.extractLsb' 8 3)))

/-- R256, with R77, R251 and R252: in its domain UNQ6 writes the unquantized ARG0, sign-extended, to RES and
changes nothing else; outside it raises BAD_OPERAND. -/
def Obligations.Unq6UnquantizesTheOperand : Prop :=
  (∀ (s : State) (n : BitVec 5), 1 ≤ n.toNat → n.toNat ≤ 16 →
    let v := s.arg0.toInt
    (0 ≤ v → v ≤ 2 ^ n.toNat - 1 →
      let u := if 15 ≤ n.toNat then v else if v = 0 then 0 else if v = 2 ^ n.toNat - 1 then 0xFFFF
        else (v * 65536 + 0x8000) / 2 ^ n.toNat
      exec (.unq6 n false) s = .next { s with res := BitVec.ofInt 64 u }) ∧
    (-(2 ^ (n.toNat - 1)) ≤ v → v ≤ 2 ^ (n.toNat - 1) - 1 →
      let u := if 16 ≤ n.toNat then v else if v = 0 then 0
        else v.sign * (if 2 ^ (n.toNat - 1) - 1 ≤ |v| then 0x7FFF
          else (|v| * 32768 + 0x4000) / 2 ^ (n.toNat - 1))
      exec (.unq6 n true) s = .next { s with res := BitVec.ofInt 64 u })) ∧
  (∀ (s : State) (n : BitVec 5) (sg : Bool),
    let v := s.arg0.toInt
    n = 0 ∨ n.toNat > 16 ∨ (sg = false ∧ ¬ (0 ≤ v ∧ v ≤ 2 ^ n.toNat - 1)) ∨
      (sg = true ∧ ¬ (-(2 ^ (n.toNat - 1)) ≤ v ∧ v ≤ 2 ^ (n.toNat - 1) - 1)) →
    Faults (exec (.unq6 n sg) s) s 4) ∧
  (∀ w : Word, w.extractLsb' 0 4 = 0x9 →
    Spells w (w.extractLsb' 10 22 = 0) (.unq6 (w.extractLsb' 4 5) (w.getLsbD 9)))

/-- R260, with R77, R257 and R258, for both values of SF16_NEG_ENCODING: in its domain FINISH writes the half
pattern and its widening to RES and changes nothing else; outside it raises BAD_OPERAND. -/
def Obligations.FinishConvertsTheOperand : Prop :=
  (∀ s : State, let x := s.arg0.toInt
    (0 ≤ x → x ≤ 0xFFFF →
      let h := BitVec.ofInt 16 (x * 31 / 64)
      exec (.finish false) s = .next { s with res := widenHalf h ++ 0#16 ++ h }) ∧
    (-32768 ≤ x → x ≤ 32767 →
      let f := x.sign * (|x| * 31 / 32)
      let h := if s.sf16Neg = .signMagnitude ∧ f < 0 then BitVec.ofInt 16 (0x8000 + |f|) else BitVec.ofInt 16 f
      exec (.finish true) s = .next { s with res := widenHalf h ++ 0#16 ++ h })) ∧
  (∀ (s : State) (sg : Bool), let x := s.arg0.toInt
    (sg = false ∧ ¬ (0 ≤ x ∧ x ≤ 0xFFFF)) ∨ (sg = true ∧ ¬ (-32768 ≤ x ∧ x ≤ 32767)) →
    Faults (exec (.finish sg) s) s 4) ∧
  (∀ w : Word, w.extractLsb' 0 4 = 0xA → Spells w (w.extractLsb' 5 27 = 0) (.finish (w.getLsbD 4)))

/-- R264, with R262: in its domain EXPAND7 writes the bit-replicated V to RES, zero-extended, and changes
nothing else; outside it raises BAD_OPERAND. -/
def Obligations.Expand7ReplicatesTheBits : Prop :=
  (∀ (s : State) (n : BitVec 4) (v : BitVec 8), 4 ≤ n.toNat → n.toNat ≤ 8 → v.toNat < 2 ^ n.toNat →
    let u := v.toNat * 2 ^ (8 - n.toNat) + v.toNat / 2 ^ (2 * n.toNat - 8)
    exec (.expand7 n v) s = .next { s with res := BitVec.ofNat 64 u }) ∧
  (∀ (s : State) (n : BitVec 4) (v : BitVec 8), n.toNat < 4 ∨ 8 < n.toNat ∨ 2 ^ n.toNat ≤ v.toNat →
    Faults (exec (.expand7 n v) s) s 4) ∧
  (∀ w : Word, w.extractLsb' 0 4 = 0xB →
    Spells w (w.extractLsb' 16 16 = 0) (.expand7 (w.extractLsb' 4 4) (w.extractLsb' 8 8)))

/-- R73: a reserved opcode raises BAD_OPCODE whatever its other bits are, and no other state changes; a host
write of such a word leaves it in CMD. -/
def Obligations.ReservedOpcodesRaiseBadOpcode : Prop :=
  (∀ (s : State) (rest : BitVec 28),
    Faults (exec (.reservedC rest) s) s 1 ∧ Faults (exec (.reservedD rest) s) s 1 ∧
    Faults (exec (.reservedE rest) s) s 1 ∧ Faults (exec (.reservedF rest) s) s 1) ∧
  (∀ (s : State) (w : Word) (rest : List HostEvent), s.faulted = false → 0xC ≤ (w.extractLsb' 0 4).toNat →
    Faults (step { s with hostIn := .write 32 0 w :: rest }) { s with cmd := w, hostIn := rest } 1)

/-! ## Arithmetic -/

/-- R233: interpolation is exact at both ends, stays between its endpoints, keeps equal endpoints, keeps BC7
channels in 0..255, and its weighted sum fits a 24-bit signed accumulator in every decode path. -/
def Obligations.InterpolationStaysBetweenItsEndpoints : Prop :=
  ∀ (p : Nat) (e0 e1 : Int), p = 2 ∨ p = 3 ∨ p = 4 →
    interpolate e0 e1 0 p = e0 ∧ interpolate e0 e1 (2 ^ p - 1) p = e1 ∧
    ∀ idx, idx < 2 ^ p →
      min e0 e1 ≤ interpolate e0 e1 idx p ∧ interpolate e0 e1 idx p ≤ max e0 e1 ∧
      (e0 = e1 → interpolate e0 e1 idx p = e0) ∧
      (0 ≤ e0 ∧ e0 ≤ 255 ∧ 0 ≤ e1 ∧ e1 ≤ 255 → 0 ≤ interpolate e0 e1 idx p ∧ interpolate e0 e1 idx p ≤ 255) ∧
      ((0 ≤ e0 ∧ e0 ≤ 0xFFFF ∧ 0 ≤ e1 ∧ e1 ≤ 0xFFFF) ∨
          (-32768 ≤ e0 ∧ e0 ≤ 0x7FFF ∧ -32768 ≤ e1 ∧ e1 ≤ 0x7FFF) →
        -(2 ^ 21) ≤ (64 - (weight p idx : Int)) * e0 + weight p idx * e1 + 32 ∧
        (64 - (weight p idx : Int)) * e0 + weight p idx * e1 + 32 ≤ 64 * 0xFFFF + 32)

/-- R253: unquantization maps 0 to 0 and the maximum to 0x7FFF or 0xFFFF, is monotone, the signed one is odd,
and the most negative value saturates to -0x7FFF. At N = 1 the signed maximum is 0, and the rule's first
clause gives it 0 (assumption 15). -/
def Obligations.UnquantizationProperties : Prop :=
  ∀ n : Nat, 1 ≤ n → n ≤ 16 →
    (∀ sg, unquantize6 0 n sg = 0) ∧
    (n < 16 → n ≠ 1 → unquantize6 (2 ^ (n - 1) - 1) n true = 0x7FFF) ∧
    (n < 15 → unquantize6 (2 ^ n - 1) n false = 0xFFFF) ∧
    (∀ v v' : Int, 0 ≤ v → v ≤ v' → v' ≤ 2 ^ n - 1 → unquantize6 v n false ≤ unquantize6 v' n false) ∧
    (∀ v v' : Int, -(2 ^ (n - 1)) ≤ v → v ≤ v' → v' ≤ 2 ^ (n - 1) - 1 →
      unquantize6 v n true ≤ unquantize6 v' n true) ∧
    (∀ v : Int, |v| ≤ 2 ^ (n - 1) - 1 → unquantize6 (-v) n true = -unquantize6 v n true) ∧
    (n < 16 → unquantize6 (-(2 ^ (n - 1))) n true = -0x7FFF)

/-- R259: the half patterns the two final conversions reach. -/
def Obligations.HalfOutputRanges : Prop :=
  (∀ (enc : NegEncoding) (x : Int), 0 ≤ x → x ≤ 0xFFFF →
    (finishUnquantize enc x false).toNat ≤ 0x7BFF ∧ (finishUnquantize enc x false).getLsbD 15 = false) ∧
  finishUnquantize .signMagnitude 0xFFFF false = 0x7BFF ∧
  (∀ x : Int, -0x7FFF ≤ x → x ≤ 0x7FFF →
    |finishScale x| ≤ 0x7BFF ∧ (finishUnquantize .signMagnitude x true).extractLsb' 10 5 ≠ 31#5) ∧
  finishUnquantize .signMagnitude (-32768) true = 0xFC00 ∧
  finishUnquantize .twosComplement (-32768) true = 0x8400

/-- R255: the binary32 pattern of every half: zeros, subnormals normalised by the k that makes the fraction's
leading one the hidden bit, normal numbers, infinities and NaNs with the payload kept. Only TWOS_COMPLEMENT
gives a half NaN; under SIGN_MAGNITUDE the one signed result with exponent 31 is 0xFC00. -/
def Obligations.HalfWideningFollowsIeee : Prop :=
  halfPattern .twosComplement (-1) = 0xFFFF ∧
  (∀ x : Int, -32768 ≤ x → x ≤ 32767 → (finishUnquantize .signMagnitude x true).extractLsb' 10 5 = 31#5 →
    finishUnquantize .signMagnitude x true = 0xFC00) ∧
  (∀ h h' : BitVec 16, widenHalf h = widenHalf h' → h = h') ∧
  ∀ h : BitVec 16, let s := h.extractLsb' 15 1; let e := h.extractLsb' 10 5; let m := h.extractLsb' 0 10
    (e = 0 → m = 0 → widenHalf h = s ++ 0#31) ∧
    (e = 0 → m ≠ 0 → ∃ k, 1 ≤ k ∧ k ≤ 10 ∧ 1024 ≤ m.toNat * 2 ^ k ∧ m.toNat * 2 ^ k < 2048 ∧
      widenHalf h = s ++ BitVec.ofNat 8 (113 - k) ++ BitVec.ofNat 10 (m.toNat * 2 ^ k - 1024) ++ 0#13) ∧
    (e ≠ 0 → e ≠ 31 → widenHalf h = s ++ BitVec.ofNat 8 (e.toNat + 112) ++ m ++ 0#13) ∧
    (e = 31 → widenHalf h = s ++ 0xFF#8 ++ m ++ 0#13)

/-- "The conversion is exact" (R255): a finite half and its widening have the same value, here in units of the
smallest subnormal of each format, 2^-24 and 2^-149. -/
def Obligations.WideningKeepsTheValue : Prop :=
  ∀ h : BitVec 16, h.extractLsb' 10 5 ≠ 31#5 → floatValue 23 8 (widenHalf h) = floatValue 10 5 h * 2 ^ 125

/-- R263: the ends of the range, n = 8, the top n bits, and strict growth. -/
def Obligations.ExpansionProperties : Prop :=
  ∀ n v : Nat, 4 ≤ n → n ≤ 8 → v < 2 ^ n →
    expand7 0 n = 0 ∧ expand7 (2 ^ n - 1) n = 255 ∧ expand7 v n / 2 ^ (8 - n) = v ∧ expand7 v n < 256 ∧
    (n = 8 → expand7 v n = v) ∧ (∀ v', v' < v → expand7 v' n < expand7 v n)

/-- R237, with R236: the 16 indices tile the index field from bit 0 to bit 16·W - |A| - 1, an anchor takes one
bit fewer, a texel is an anchor exactly when it is the anchor of its own subset, and a field of width at
most 4 stays below 64 bits. The index of a texel is its bits of the field, the lowest first, and nothing above
them. -/
def Obligations.IndicesTileTheField : Prop :=
  ∀ (ns p w : Nat), 1 ≤ ns → ns ≤ 3 → p < 64 → 1 ≤ w →
    (anchors ns p).length = ns ∧ indexOffset 0 w ns p = 0 ∧
    (∀ i, i < 15 → indexOffset (i + 1) w ns p = indexOffset i w ns p + indexBits i w ns p) ∧
    indexOffset 15 w ns p + indexBits 15 w ns p = 16 * w - ns ∧
    (∀ i, i < 16 → (i ∈ anchors ns p ↔ (anchors ns p).getD (partitionTable ns p i) 0 = i)) ∧
    (∀ field i j, (colorIndex field i w ns p).testBit j =
      (decide (j < indexBits i w ns p) && field.testBit (indexOffset i w ns p + j))) ∧
    (∀ i, i ∈ anchors ns p → indexBits i w ns p = w - 1) ∧
    (∀ i, i ∈ anchors ns p → ∀ field, colorIndex field i w ns p ≤ 2 ^ (w - 1) - 1) ∧
    (∀ i, i < 16 → i ∉ anchors ns p → indexBits i w ns p = w) ∧
    (∀ i, 1 ≤ i → i < 16 → indexOffset i w 1 p = w * i - 1) ∧
    (w ≤ 4 → 16 * w - ns ≤ 63)

/-! ## Block instructions -/

/-- R174 to R177 and R181: the endpoints of the parse of a BC6H block, for both values of SIGNED: E[0] as
stored, the others as deltas from it modulo 2^EB in a transformed mode and absolute otherwise, each read as
an EB-bit two's-complement number when signed (`Int.bmod`). -/
def Obligations.Bc6hEndpointsAreReconstructed : Prop :=
  ∀ (m : Bc6hMode) (f : Bc6hFields) (k : Nat) (c : Chan), f.wf (bc6hDesc m) = true →
    k < 2 * (bc6hDesc m).ns → c ≠ .a →
    let d := bc6hDesc m
    let base : Int := (f.e0.chan c).toNat
    let raw : Int := ((f.endpoint k).chan c).toNat
    let v : Int := if k = 0 then base
      else if d.transformed = true then base + raw.bmod (2 ^ d.delta c) else raw
    (parseBc6h m false f).endpoints.length = 2 * d.ns ∧
    (parseBc6h m true f).endpoints.length = 2 * d.ns ∧
    (((parseBc6h m false f).endpoints.getD k ⟨0, 0, 0, 0⟩).chan c) = v % 2 ^ d.eb ∧
    (((parseBc6h m true f).endpoints.getD k ⟨0, 0, 0, 0⟩).chan c) = v.bmod (2 ^ d.eb) ∧
    (parseBc6h m false f).part = (if d.ns = 2 then f.d.setWidth 6 else 0)

/-- R178: the ranges of the endpoints, and the two readings of one bit pattern. -/
def Obligations.Bc6hEndpointRanges : Prop :=
  ∀ (m : Bc6hMode) (f : Bc6hFields) (k : Nat) (c : Chan), f.wf (bc6hDesc m) = true → c ≠ .a →
    k < 2 * (bc6hDesc m).ns →
    let eb := (bc6hDesc m).eb
    let u := bc6hChannel (bc6hDesc m) false f k c
    let v := bc6hChannel (bc6hDesc m) true f k c
    0 ≤ u ∧ u ≤ 2 ^ eb - 1 ∧ -(2 ^ (eb - 1)) ≤ v ∧ v ≤ 2 ^ (eb - 1) - 1 ∧ v % 2 ^ eb = u ∧
    -(2 ^ 16) ≤ u ∧ u < 2 ^ 16 ∧ -(2 ^ 16) ≤ v ∧ v < 2 ^ 16

/-- R284, with R286 and R289: DECBC6U and DECBC6S complete; on a block with a valid selector they write every
texel's R, G and B to OUTF in row-major order and clear INVALID, on any other they write zeros and set it, and
nothing else changes; a word of theirs with a 1 in bits 31:4 raises RESERVED_FIELD. -/
def Obligations.Bc6hDecodesWriteEveryTexel : Prop :=
  (∀ (s : State) (m : Bc6hMode), bc6hModeOfId (bc6hSelector s.blk).1 = some m →
    ∃ t u, exec .decbc6u s = .next t ∧ DecodedBc6h s t false ∧ exec .decbc6s s = .next u ∧
      DecodedBc6h s u false ∧ ∀ (i : Fin 16) (c : Fin 3),
        t.outf[3 * i.val + c.val] = bc6hTexel s.sf16Neg false m (bc6hFieldsOf m s.blk) i.val (bc6hChan c.val) ∧
        u.outf[3 * i.val + c.val] = bc6hTexel s.sf16Neg true m (bc6hFieldsOf m s.blk) i.val (bc6hChan c.val)) ∧
  (∀ s : State, bc6hModeOfId (bc6hSelector s.blk).1 = none → ∃ t u, exec .decbc6u s = .next t ∧
    DecodedBc6h s t true ∧ exec .decbc6s s = .next u ∧ DecodedBc6h s u true ∧
    ∀ j : Fin 48, t.outf[j] = 0 ∧ u.outf[j] = 0) ∧
  (∀ w : Word, (w.extractLsb' 0 4 = 0x3 → Spells w (w.extractLsb' 4 28 = 0) .decbc6u) ∧
    (w.extractLsb' 0 4 = 0x4 → Spells w (w.extractLsb' 4 28 = 0) .decbc6s))

/-- R203 and R204: the expanded channel of a BC7 endpoint: the P-bit, its own or its subset's, appended below,
then bit replication; alpha 255 in a mode without alpha. -/
def Obligations.Bc7EndpointsExpand : Prop :=
  ∀ (m : Bc7Mode) (f : Bc7Fields) (k : Nat) (c : Chan), k < 2 * (bc7Desc m).ns →
    let d := bc7Desc m
    let width := if c = .a then d.ab else d.cb
    let raw := ((f.endpoint k).chan c).toNat
    let pbit := (f.p.getLsbD (if d.pk = .shared then k / 2 else k)).toNat
    let v := if d.pk = .none then raw else 2 * raw + pbit
    let n := if d.pk = .none then width else width + 1
    (parseBc7 m f).endpoints.length = 2 * d.ns ∧
    ((parseBc7 m f).endpoints.getD k ⟨0, 0, 0, 0⟩).chan c =
      if c = .a ∧ d.ab = 0 then 255 else (((v * 2 ^ (8 - n)) ||| (v / 2 ^ (2 * n - 8)) : Nat) : Int)

/-- R285 and R288, with R287 and R289: DECBC7 completes; on a block with a mode it writes every texel's R, G, B
and A after rotation to OUTB in row-major order and clears INVALID, on the reserved mode it writes zeros and
sets it, and nothing else changes; a word of it with a 1 in bits 31:4 raises RESERVED_FIELD. The first clause
says the same of the 8 BC7 block instructions bc7Mode0 to bc7Mode7 (`Instr.ofBc7 m`); that each decodes the
fields it carries, whatever BLK holds, is the model's choice (assumption 14). -/
def Obligations.Bc7DecodesWriteEveryTexel : Prop :=
  (∀ (s : State) (m : Bc7Mode) (f : Bc7Fields), ∃ t, exec (.ofBc7 m f) s = .next t ∧ DecodedBc7 s t false ∧
    ∀ (i : Fin 16) (c : Fin 4), t.outb[4 * i.val + c.val] =
      BitVec.ofInt 8 (bc7Value m f i.val (rotatedFrom f.rot (bc7Chan c.val)))) ∧
  (∀ (s : State) (m : Bc7Mode), bc7Selector s.blk = bc7ModeId m → ∃ t, exec .decbc7 s = .next t ∧
    DecodedBc7 s t false ∧ ∀ (i : Fin 16) (c : Fin 4), t.outb[4 * i.val + c.val] =
      BitVec.ofInt 8 (bc7Value m (bc7FieldsOf m s.blk) i.val
        (rotatedFrom (bc7FieldsOf m s.blk).rot (bc7Chan c.val)))) ∧
  (∀ s : State, bc7Selector s.blk = 8 → ∃ t, exec .decbc7 s = .next t ∧ DecodedBc7 s t true ∧
    ∀ j : Fin 64, t.outb[j] = 0) ∧
  (∀ w : Word, w.extractLsb' 0 4 = 0x5 → Spells w (w.extractLsb' 4 28 = 0) .decbc7)

/-- "Every result channel is in 0..255, so no clamping is needed" (R285; R200, R233): the byte written is the
interpolated value itself. -/
def Obligations.Bc7ValuesAreBytes : Prop :=
  ∀ (m : Bc7Mode) (f : Bc7Fields) (i : Nat) (c : Chan), f.wf (bc7Desc m) = true → i < 16 →
    (∀ k, k < 2 * (bc7Desc m).ns →
      0 ≤ bc7Channel (bc7Desc m) f k c ∧ bc7Channel (bc7Desc m) f k c ≤ 255) ∧
    0 ≤ bc7Value m f i c ∧ bc7Value m f i c ≤ 255 ∧
    ((BitVec.ofInt 8 (bc7Value m f i c)).toNat : Int) = bc7Value m f i c

/-- "In modes 0 to 3 every endpoint has A = 255, so every texel has A = 255" (R209): DECBC7 of a block of
mode 0, 1, 2 or 3 writes 255 to every alpha byte. -/
def Obligations.ModesWithoutAlphaAreOpaque : Prop :=
  ∀ (s t : State) (m : Bc7Mode), m = .m0 ∨ m = .m1 ∨ m = .m2 ∨ m = .m3 → bc7Selector s.blk = bc7ModeId m →
    exec .decbc7 s = .next t → ∀ i : Fin 16, t.outb[4 * i.val + 3] = 255

/-- R283, with R100 and R105: a reserved BC6H selector (bc6hReserved13, 17, 1B and 1F) fills OUTF with zeros
and the reserved BC7 mode (bc7Reserved) fills OUTB, INVALID becomes 1 and nothing else changes; so do DECBC6U,
DECBC6S and DECBC7 on such a block. No fault is raised. That the five reserved block instructions do so whatever
BLK holds is the model's choice (assumption 14). -/
def Obligations.InvalidSelectorsZeroFill : Prop :=
  (∀ (s : State) (k : Bc6hReserved) (rest : BitVec 123), ∃ t, exec (.ofBc6hReserved k rest) s = .next t ∧
    DecodedBc6h s t true ∧ ∀ j : Fin 48, t.outf[j] = 0) ∧
  (∀ s : State, bc6hModeOfId (bc6hSelector s.blk).1 = none →
    (∃ t, exec .decbc6u s = .next t ∧ DecodedBc6h s t true ∧ ∀ j : Fin 48, t.outf[j] = 0) ∧
    (∃ t, exec .decbc6s s = .next t ∧ DecodedBc6h s t true ∧ ∀ j : Fin 48, t.outf[j] = 0)) ∧
  (∀ (s : State) (rest : BitVec 120), ∃ t, exec (.bc7Reserved rest) s = .next t ∧
    DecodedBc7 s t true ∧ ∀ j : Fin 64, t.outb[j] = 0) ∧
  (∀ s : State, s.blk.extractLsb' 0 8 = 0 →
    ∃ t, exec .decbc7 s = .next t ∧ DecodedBc7 s t true ∧ ∀ j : Fin 64, t.outb[j] = 0)

/-- R290: the all-zero block is a valid BC6H block and decodes to 48 zeros with INVALID 0, unsigned and signed;
as a BC7 block it is the reserved mode (R285). -/
def Obligations.ZeroBlockDecodesToZeros : Prop :=
  ∀ s : State, s.blk = 0 →
    (∃ t, exec .decbc6u s = .next t ∧ DecodedBc6h s t false ∧ ∀ j : Fin 48, t.outf[j] = 0) ∧
    (∃ t, exec .decbc6s s = .next t ∧ DecodedBc6h s t false ∧ ∀ j : Fin 48, t.outf[j] = 0) ∧
    (∃ t, exec .decbc7 s = .next t ∧ DecodedBc7 s t true ∧ ∀ j : Fin 64, t.outb[j] = 0)

/-- R80: a decode command runs the block in BLK as the instruction of its family. DECBC6S is the case where
CMD holds its own word; DECBC6U the case where CMD holds another. The first clause: each of the 14 BC6H block
instructions bc6hMode00 to bc6hMode0F (`Instr.ofBc6h m`) completes, writes every texel's R, G and B to OUTF and
clears INVALID, and changes nothing else. That a block instruction decodes the fields it carries, whatever BLK
holds (assumption 14), and that it reads SIGNED from CMD (assumption 6) are the model's choices. -/
def Obligations.BlocksRunAsTheirCommand : Prop :=
  (∀ (s : State) (m : Bc6hMode) (f : Bc6hFields), ∃ t, exec (.ofBc6h m f) s = .next t ∧ DecodedBc6h s t false ∧
    ∀ (i : Fin 16) (c : Fin 3), t.outf[3 * i.val + c.val] =
      bc6hTexel s.sf16Neg (s.cmd.extractLsb' 0 4 == 0x4) m f i.val (bc6hChan c.val)) ∧
  (∀ s : State, s.cmd.extractLsb' 0 4 = 0x4 → exec .decbc6s s = exec (decodeBc6hBlock s.blk) s) ∧
  (∀ s : State, s.cmd.extractLsb' 0 4 ≠ 0x4 → exec .decbc6u s = exec (decodeBc6hBlock s.blk) s) ∧
  (∀ s : State, exec .decbc7 s = exec (decodeBc7Block s.blk) s)

/-- "the unsigned path never yields an infinity, NaN or negative value" (R259): after DECBC6U, whatever the
block, every OUTF word is a finite binary32 with sign 0. -/
def Obligations.UnsignedOutputsAreFinite : Prop :=
  ∀ (s t : State), exec .decbc6u s = .next t → ∀ j : Fin 48,
    (t.outf[j] : Word).getLsbD 31 = false ∧ (t.outf[j] : Word).extractLsb' 23 8 ≠ 0xFF#8

/-- R259 and the NaN clause of R255: under SIGN_MAGNITUDE, DECBC6S of any block writes finite words only, but
for minus infinity in mode 0x0F; it never writes a NaN or plus infinity. -/
def Obligations.SignedOutputsAreNumbers : Prop :=
  ∀ (s t : State), s.sf16Neg = .signMagnitude → exec .decbc6s s = .next t → ∀ j : Fin 48,
    (t.outf[j] : Word).extractLsb' 23 8 = 0xFF#8 →
    (t.outf[j] : Word) = 0xFF800000 ∧ s.blk.extractLsb' 0 5 = 0x0F#5

/-! ## Faults and the host port -/

/-- R310: a CMD write is one atomic step: it completes, and the accesses after it are still to come. A command
that faults changes nothing but CMD, which holds its word, FAULT and CAUSE, and its cause is one of the four
of a CMD write (R311). -/
def Obligations.FaultsArePrecise : Prop :=
  ∀ (s : State) (w : Word) (rest : List HostEvent), s.faulted = false →
    ∃ t, step { s with hostIn := .write 32 0 w :: rest } = .next t ∧ t.hostIn = rest ∧ t.cmd = w ∧
      (t.faulted = true →
        FaultEntered { s with cmd := w, hostIn := rest } t (t.status.extractLsb' 4 4) ∧
        1 ≤ (t.status.extractLsb' 4 4).toNat ∧ (t.status.extractLsb' 4 4).toNat ≤ 4)

/-- R70 and R312: the order of the checks. A write to a faulted instance is ignored; then a bad access; then, for
a CMD write, which stores the word, the reserved opcode, the reserved bits, and last the command with its own
checks. -/
def Obligations.ChecksComeInOrder : Prop :=
  (∀ (s : State) (width : Nat) (off : BitVec 10) (v : Word) (rest : List HostEvent), s.faulted = true →
    step { s with hostIn := .write width off v :: rest } = .next { s with hostIn := rest }) ∧
  (∀ (s : State) (width : Nat) (off : BitVec 10) (v : Word) (rest : List HostEvent), s.faulted = false →
    (width ≠ 32 ∨ ¬ MappedOffset off.toNat ∨ ¬ WritableOffset off.toNat →
      Faults (step { s with hostIn := .write width off v :: rest }) { s with hostIn := rest } 5) ∧
    (width ≠ 32 ∨ ¬ MappedOffset off.toNat →
      Faults (step { s with hostIn := .read width off :: rest })
        { s with hostIn := rest, readLog := 0 :: s.readLog } 5)) ∧
  (∀ (s : State) (w : Word) (rest : List HostEvent), s.faulted = false →
    (12 ≤ (w.extractLsb' 0 4).toNat →
      Faults (step { s with hostIn := .write 32 0 w :: rest }) { s with cmd := w, hostIn := rest } 1) ∧
    ((w.extractLsb' 0 4).toNat < 12 → w &&& reservedMask (w.extractLsb' 0 4).toNat ≠ 0 →
      Faults (step { s with hostIn := .write 32 0 w :: rest }) { s with cmd := w, hostIn := rest } 2) ∧
    ((w.extractLsb' 0 4).toNat < 12 → w &&& reservedMask (w.extractLsb' 0 4).toNat = 0 →
      ∃ i, decodeCommand w = .ok i ∧
        step { s with hostIn := .write 32 0 w :: rest } = exec i { s with cmd := w, hostIn := rest }))

/-- R314: while FAULT = 1 every host write is ignored, a read of a mapped offset returns the register, and a
bad read returns 0; STATUS does not change. -/
def Obligations.FaultedInstanceIsQuiescent : Prop :=
  ∀ (s : State) (width : Nat) (off : BitVec 10) (v : Word) (rest : List HostEvent), s.faulted = true →
    step { s with hostIn := .write width off v :: rest } = .next { s with hostIn := rest } ∧
    (∀ r, accessReg width off = some r →
      step { s with hostIn := .read width off :: rest } =
        .next { s with hostIn := rest, readLog := readReg r s :: s.readLog }) ∧
    (accessReg width off = none →
      step { s with hostIn := .read width off :: rest } =
        .next { s with hostIn := rest, readLog := 0 :: s.readLog })

/-- R315: only reset clears FAULT and CAUSE. Along any run in which no reset is pending, a faulted instance
keeps every register, FAULT and CAUSE included; only the host's own accesses and reads advance. -/
def Obligations.FaultLastsUntilReset : Prop :=
  (∀ (k : Nat) (s : State), s.faulted = true → (∀ e ∈ s.hostIn, e.isAccess = true) →
    ∃ t, Host.Core.run Sys2Proof.core k s = .next t ∧
      t = { s with hostIn := s.hostIn.drop k, readLog := t.readLog }) ∧
  (∀ (s : State) (d : ResetDraw) (rest : List HostEvent), ∃ t,
    step { s with hostIn := .reset d :: rest } = .next t ∧ t.faulted = false ∧ t.status.extractLsb' 4 4 = 0)

/-- R55 and the map of R56: an access that is not 32 bits wide, or not to a mapped, 4-byte-aligned offset,
raises BAD_ACCESS, and so does a write to a read-only register; a read that faults returns 0, and nothing else
changes. -/
def Obligations.BadAccessesFault : Prop :=
  ∀ (s : State) (width : Nat) (off : BitVec 10) (v : Word) (rest : List HostEvent), s.faulted = false →
    (width ≠ 32 ∨ ¬ MappedOffset off.toNat →
      Faults (step { s with hostIn := .write width off v :: rest }) { s with hostIn := rest } 5 ∧
      Faults (step { s with hostIn := .read width off :: rest })
        { s with hostIn := rest, readLog := 0 :: s.readLog } 5) ∧
    (MappedOffset off.toNat → ¬ WritableOffset off.toNat →
      Faults (step { s with hostIn := .write 32 off v :: rest }) { s with hostIn := rest } 5)

/-- R56, with R22 to R27 and R287: a 32-bit read of each mapped offset returns its register and changes
nothing, in a faulted instance too. -/
def Obligations.ReadsReturnTheirRegister : Prop :=
  ∀ (s : State) (rest : List HostEvent),
    let read (off : Nat) : Out := step { s with hostIn := .read 32 (BitVec.ofNat 10 off) :: rest }
    let gives (v : Word) : Out := .next { s with hostIn := rest, readLog := v :: s.readLog }
    read 0x000 = gives s.cmd ∧ read 0x004 = gives s.status ∧ read 0x008 = gives s.arg0 ∧
    read 0x00C = gives s.arg1 ∧ read 0x010 = gives (s.res.extractLsb' 0 32) ∧
    read 0x014 = gives (s.res.extractLsb' 32 32) ∧
    (∀ k : Fin 4, read (0x020 + 4 * k.val) = gives (s.blk.extractLsb' (32 * k.val) 32)) ∧
    (∀ k : Fin 48, read (0x100 + 4 * k.val) = gives s.outf[k]) ∧
    (∀ k : Fin 16, read (0x200 + 4 * k.val) =
      gives (s.outb[4 * k.val + 3] ++ s.outb[4 * k.val + 2] ++ s.outb[4 * k.val + 1] ++ s.outb[4 * k.val]))

/-- R57, with R23, R25 and R52: a write to ARG0, ARG1 or BLK_Wk of an instance that is not faulted stores the
value and changes nothing else; bit b of BLK_Wk is block bit 32k + b. -/
def Obligations.WritesStoreTheirValue : Prop :=
  ∀ (s : State) (v : Word) (rest : List HostEvent), s.faulted = false →
    step { s with hostIn := .write 32 0x008 v :: rest } = .next { s with hostIn := rest, arg0 := v } ∧
    step { s with hostIn := .write 32 0x00C v :: rest } = .next { s with hostIn := rest, arg1 := v } ∧
    ∀ k : Fin 4, ∃ t,
      step { s with hostIn := .write 32 (BitVec.ofNat 10 (0x020 + 4 * k.val)) v :: rest } = .next t ∧
      t = { s with hostIn := rest, blk := t.blk } ∧
      ∀ j, j < 128 → t.blk.getLsbD j =
        if 32 * k.val ≤ j ∧ j < 32 * k.val + 32 then v.getLsbD (j - 32 * k.val) else s.blk.getLsbD j

/-- R52 and `ldblk128` of R79: the four BLK_Wk writes of a block load exactly that block. -/
def Obligations.FourWritesLoadTheBlock : Prop :=
  ∀ (s : State) (x : Block) (rest : List HostEvent), s.faulted = false →
    Host.Core.run Sys2Proof.core 4 { s with hostIn := loadBlock x ++ rest } =
      .next { s with hostIn := rest, blk := x } ∧
    x = wordOf x 3 ++ wordOf x 2 ++ wordOf x 1 ++ wordOf x 0

/-- R78 and R79, line by line. `wr` and `rd` of a register are one 32-bit access to its offset (R56). Each command
line is one CMD write of the word of its command; with ARG0 and ARG1 operands it writes them first. `ldblk128`
writes the four words of its block, `ldblk` does so for 16 bytes, byte k in block bits 8k+7..8k, and takes no other
number of bytes (93 U19); `rdres` reads RES_LO and RES_HI. A program is the accesses of its lines in order. That
`wr` takes the read-only registers, and `wr` and `rd` a plain offset, is read from R320 (assumption 16). -/
def Obligations.HostLinesSpellTheirCommands : Prop :=
  let spells (l : HostLine) (i : Instr) : Prop :=
    ∃ w : Word, expandLine l = some [.write 32 0 w] ∧ decodeCommand w = .ok i
  let names (r : HostReg) (off : Nat) : Prop :=
    (∀ v : Word, expandLine (.wr r v.toNat) = some [.write 32 (BitVec.ofNat 10 off) v]) ∧
    expandLine (.rd r) = some [.read 32 (BitVec.ofNat 10 off)]
  let arg0 (v : Int) : HostEvent := .write 32 0x008 (BitVec.ofInt 32 v)
  let arg1 (v : Int) : HostEvent := .write 32 0x00C (BitVec.ofInt 32 v)
  (names .cmd 0x000 ∧ names .status 0x004 ∧ names .arg0 0x008 ∧ names .arg1 0x00C ∧ names .resLo 0x010 ∧
    names .resHi 0x014 ∧ (∀ k : Fin 4, names (.blkW k) (0x020 + 4 * k.val)) ∧
    (∀ k : Fin 48, names (.outf k) (0x100 + 4 * k.val)) ∧ (∀ k : Fin 16, names (.outbW k) (0x200 + 4 * k.val))) ∧
  (∀ (off : BitVec 10) (v : Word), expandLine (.wrAt off v.toNat) = some [.write 32 off v] ∧
    expandLine (.rdAt off) = some [.read 32 off]) ∧
  spells .nop .nop ∧ spells .decBc6hU .decbc6u ∧ spells .decBc6hS .decbc6s ∧ spells .decBc7 .decbc7 ∧
  spells .modeqBc6h (.modeq .bc6h) ∧ spells .modeqBc7 (.modeq .bc7) ∧
  spells .finishU (.finish false) ∧ spells .finishS (.finish true) ∧
  (∀ off : BitVec 7, spells (.rdbit off.toNat) (.rdbit off)) ∧
  (∀ off len : BitVec 7, spells (.rdbits off.toNat len.toNat) (.rdbits off len)) ∧
  (∀ (ns : BitVec 2) (p : BitVec 6) (i : BitVec 4), spells (.partq ns.toNat p.toNat i.toNat) (.partq ns p i)) ∧
  (∀ (idx : BitVec 4) (prec : BitVec 3), spells (.interp idx.toNat prec.toNat) (.interp idx prec)) ∧
  (∀ n : BitVec 5, spells (.unq6U n.toNat) (.unq6 n false) ∧ spells (.unq6S n.toNat) (.unq6 n true)) ∧
  (∀ (n : BitVec 4) (v : BitVec 8), spells (.expand7 n.toNat v.toNat) (.expand7 n v)) ∧
  (∀ (e0 e1 : Int) (idx prec : Nat), expandLine (.interpOf e0 e1 idx prec) =
    (expandLine (.interp idx prec)).map fun es => arg0 e0 :: arg1 e1 :: es) ∧
  (∀ (v : Int) (n : Nat), expandLine (.unq6UOf v n) = (expandLine (.unq6U n)).map (arg0 v :: ·) ∧
    expandLine (.unq6SOf v n) = (expandLine (.unq6S n)).map (arg0 v :: ·)) ∧
  (∀ x : Int, expandLine (.finishUOf x) = (expandLine .finishU).map (arg0 x :: ·) ∧
    expandLine (.finishSOf x) = (expandLine .finishS).map (arg0 x :: ·)) ∧
  expandLine .rdres = some [.read 32 0x010, .read 32 0x014] ∧
  (∀ x : Block, expandLine (.ldblk128 x) =
    some [.write 32 0x020 (x.extractLsb' 0 32), .write 32 0x024 (x.extractLsb' 32 32),
      .write 32 0x028 (x.extractLsb' 64 32), .write 32 0x02C (x.extractLsb' 96 32)]) ∧
  (∀ bytes : List Byte, bytes.length ≠ 16 → expandLine (.ldblk bytes) = none) ∧
  (∀ bytes : Vector Byte 16, ∃ x : Block, expandLine (.ldblk bytes.toList) = expandLine (.ldblk128 x) ∧
    ∀ k : Fin 16, x.extractLsb' (8 * k.val) 8 = bytes[k]) ∧
  expandProgram [] = some [] ∧ (∀ l : HostLine, expandProgram [l] = expandLine l) ∧
  (∀ p q : List HostLine, expandProgram (p ++ q) =
    (expandProgram p).bind fun a => (expandProgram q).map fun b => a ++ b)

/-- R70: a step whose next host event is a CMD write of a word that decodes stores the word and is `exec` of
the decoded instruction; with no event pending the instance holds its state (R321). -/
def Obligations.StepRunsTheDecodedInstruction : Prop :=
  (∀ (s : State) (w : Word) (i : Instr) (rest : List HostEvent), s.faulted = false → decodeCommand w = .ok i →
    step { s with hostIn := .write 32 0 w :: rest } = exec i { s with cmd := w, hostIn := rest }) ∧
  (∀ s : State, s.hostIn = [] → step s = .next s)

/-- A word of the opcode table placed by `withFetchWord` is what the next step of an instance that is not
faulted runs, a block through the decode command of its family (R80; the placing is the model's choice,
assumption 4). -/
def Obligations.PlacedWordRunsNext : Prop :=
  ∀ (s : State) (nbits w : Nat) (i : Instr), s.faulted = false → decodeTableWord nbits w = some i →
    ∃ c : Word, step (s.withFetchWord nbits w) =
      exec i { s.withFetchWord nbits w with hostIn := s.hostIn, cmd := c }

/-- R340 and R36: the reset event sets CMD and STATUS to 0 and every register without a reset value to the
draw, whatever the draw is, and leaves no ParsedBlock; `State.reset` has those values of CMD and STATUS. That
the host's side and SF16_NEG_ENCODING stay is the model's choice (assumptions 3 and 5). -/
def Obligations.ResetSetsEveryRegister : Prop :=
  (∀ (s : State) (d : ResetDraw) (rest : List HostEvent),
    step { s with hostIn := .reset d :: rest } = .next
      { cmd := 0, status := 0, arg0 := d.arg0, arg1 := d.arg1, res := d.res, blk := d.blk, outf := d.outf,
        outb := d.outb, parsed := none, sf16Neg := s.sf16Neg, hostIn := rest, readLog := s.readLog }) ∧
  State.reset.cmd = 0 ∧ State.reset.status = 0 ∧ State.reset.parsed = none

/-! ## Whole-machine rules -/

/-- R22 and R33: every step keeps a legal state: the reserved STATUS bits read 0, CAUSE is a code of R311 and
is 0 exactly when FAULT is 0, and no ParsedBlock outlives its command. -/
def Obligations.StepsKeepTheStateLegal : Prop :=
  ∀ s t : State, s.legal = true → step s = .next t → t.legal = true

/-- The state after reset is legal (R36). -/
def Obligations.ResetStateIsLegal : Prop := State.reset.legal = true

/-- The table of R28: no command writes CMD, ARG0, ARG1 or BLK; RES is written only by the eight commands of
R24, OUTF only by the BC6H decodes (R26), OUTB only by BC7 decodes (R27), and INVALID only by decodes (R22). That
no command changes `sf16Neg` (assumption 3), `hostIn` or `readLog` (assumption 5) is the model's choice. -/
def Obligations.CommandsWriteOnlyTheirRegisters : Prop :=
  ∀ (i : Instr) (s t : State), exec i s = .next t →
    t.cmd = s.cmd ∧ t.arg0 = s.arg0 ∧ t.arg1 = s.arg1 ∧ t.blk = s.blk ∧
    t.sf16Neg = s.sf16Neg ∧ t.hostIn = s.hostIn ∧ t.readLog = s.readLog ∧
    (writesRes i = false → t.res = s.res) ∧ (decodesBc6h i = false → t.outf = s.outf) ∧
    (decodesBc7 i = false → t.outb = s.outb) ∧
    (decodesBc6h i = false → decodesBc7 i = false → t.status.getLsbD 1 = s.status.getLsbD 1)

/-- R355, "Every step terminates, so no run hangs", and R310: every instruction, and every step, from every
state ends in a next state; the machine never stops. -/
def Obligations.EveryStepCompletes : Prop :=
  (∀ (i : Instr) (s : State), ∃ t, exec i s = .next t) ∧ (∀ s : State, ∃ t, step s = .next t) ∧
  (∀ (k : Nat) (s : State), ∃ t, Host.Core.run Sys2Proof.core k s = .next t)

/-- A decode "is a pure function of a 16-byte input and read-only constant tables to a fixed-size output"
(R20): two states with the same BLK give the same output and the same INVALID, whatever else they hold; a
signed one under the same SF16_NEG_ENCODING. -/
def Obligations.DecodesDependOnlyOnTheBlock : Prop :=
  ∀ s s' : State, s.blk = s'.blk →
    (∀ t t', exec .decbc6u s = .next t → exec .decbc6u s' = .next t' →
      t.outf = t'.outf ∧ t.status.getLsbD 1 = t'.status.getLsbD 1) ∧
    (∀ t t', s.sf16Neg = s'.sf16Neg → exec .decbc6s s = .next t → exec .decbc6s s' = .next t' →
      t.outf = t'.outf ∧ t.status.getLsbD 1 = t'.status.getLsbD 1) ∧
    (∀ t t', exec .decbc7 s = .next t → exec .decbc7 s' = .next t' →
      t.outb = t'.outb ∧ t.status.getLsbD 1 = t'.status.getLsbD 1)

/-- R34: the ParsedBlock is not observable. No instruction's effect depends on one that an earlier command
left: the results differ at most in the ParsedBlock field itself. -/
def Obligations.ParsedBlockIsNotObservable : Prop :=
  ∀ (i : Instr) (s t : State) (p : Option ParsedBlock), exec i s = .next t →
    ∃ u, exec i { s with parsed := p } = .next u ∧ { u with parsed := none } = { t with parsed := none }
end

