-- ==== Sys2Proof/Laws/Bits.lean ====
section
/-! SUPPORT. What the bit helpers do, bit by bit and as arithmetic, so that no later proof unfolds them. -/

namespace Sys2Proof.Machine

/-! ## The cursor read -/

/-- Bit `j` of a cursor read is block bit `off + j` (R121). -/
theorem memRead_testBit (blk : Block) (off n j : Nat) :
    (memRead blk off n).testBit j = (decide (j < n) && blk.getLsbD (off + j)) := by
  simp [memRead, Nat.testBit_mod_two_pow, BitVec.getLsbD]

theorem memRead_lt (blk : Block) (off n : Nat) : memRead blk off n < 2 ^ n :=
  Nat.mod_lt _ (Nat.two_pow_pos n)

/-- A cursor read of no bits is 0. -/
theorem memRead_zero (blk : Block) (off : Nat) : memRead blk off 0 = 0 := by
  simp [memRead, Nat.mod_one]

/-- A cursor read is the slice `BLK[off+n-1 : off]` (R51, R121). -/
theorem memRead_eq_extract (blk : Block) (off n : Nat) :
    memRead blk off n = (blk.extractLsb' off n).toNat := by
  simp [memRead, BitVec.extractLsb'_toNat]

theorem memRead_one (blk : Block) (off : Nat) : memRead blk off 1 = (blk.getLsbD off).toNat := by
  have h : memRead blk off 1 = (blk.toNat >>> off) % 2 := rfl
  rw [h, BitVec.getLsbD, Nat.testBit, Nat.one_and_eq_mod_two]
  rcases Nat.mod_two_eq_zero_or_one (blk.toNat >>> off) with e | e <;> simp [e]

/-- The low bits of a wider cursor read are the narrower one (R53). -/
theorem memRead_mod (blk : Block) (off m n : Nat) (h : m ≤ n) :
    memRead blk off n % 2 ^ m = memRead blk off m := by
  apply Nat.eq_of_testBit_eq
  intro j
  simp only [Nat.testBit_mod_two_pow, memRead_testBit]
  by_cases hj : j < m
  · simp [hj, Nat.lt_of_lt_of_le hj h]
  · simp [hj]

/-! ## Exact integers -/

theorem maskN_eq (n : Nat) (v : Int) : maskN n v = v % 2 ^ n := by
  simp [maskN]

theorem maskN_nonneg (n : Nat) (v : Int) : 0 ≤ maskN n v := by
  rw [maskN_eq]; exact Int.emod_nonneg _ (by positivity)

theorem maskN_lt (n : Nat) (v : Int) : maskN n v < 2 ^ n := by
  rw [maskN_eq]; exact Int.emod_lt_of_pos _ (by positivity)

/-- Sign extension is the balanced remainder (R9). -/
theorem sextN_eq_bmod (n : Nat) (v : Int) (h : 1 ≤ n) : sextN n v = v.bmod (2 ^ n) := by
  obtain ⟨k, rfl⟩ : ∃ k, n = k + 1 := ⟨n - 1, by omega⟩
  have e : (2 ^ (k + 1) : Nat) = 2 * 2 ^ k := by rw [pow_succ]; ring
  simp only [sextN, maskN, Int.bmod, Nat.add_sub_cancel, e]
  push_cast
  have h2 : ((2 : Int) * 2 ^ k + 1) / 2 = 2 ^ k := by omega
  rw [h2]

theorem sextN_ge (n : Nat) (v : Int) (h : 1 ≤ n) : -(2 ^ (n - 1)) ≤ sextN n v := by
  obtain ⟨k, rfl⟩ : ∃ k, n = k + 1 := ⟨n - 1, by omega⟩
  have h0 := maskN_nonneg (k + 1) v
  have e : (2 ^ (k + 1) : Int) = 2 * 2 ^ k := by rw [pow_succ]; ring
  have p : (0 : Int) < 2 ^ k := by positivity
  simp only [sextN, Nat.add_sub_cancel]
  push_cast
  rw [e]
  split <;> omega

theorem sextN_lt (n : Nat) (v : Int) (h : 1 ≤ n) : sextN n v < 2 ^ (n - 1) := by
  obtain ⟨k, rfl⟩ : ∃ k, n = k + 1 := ⟨n - 1, by omega⟩
  have h0 := maskN_lt (k + 1) v
  have e : (2 ^ (k + 1) : Int) = 2 * 2 ^ k := by rw [pow_succ]; ring
  rw [e] at h0
  simp only [sextN, Nat.add_sub_cancel]
  push_cast
  rw [e]
  split
  · simpa using ‹_›
  · omega

/-- The floor shift is floor division by a power of two (R9). -/
theorem floorShr_eq (a : Int) (s : Nat) : floorShr a s = a / 2 ^ s := by
  simp [floorShr, Int.shiftRight_eq_div_pow]

/-! ## Buffers and words -/

@[simp] theorem tabulate_getElem {α : Type} (n : Nat) (f : Nat → α) (k : Nat) (h : k < n) :
    (tabulate n f)[k] = f k := by
  simp [tabulate]

/-- Bit `j` of a block after word `k` is replaced (R25, R52). -/
theorem setBlockWord_getLsbD (blk : Block) (k : Nat) (v : Word) (j : Nat) (hj : j < 128) :
    (setBlockWord blk k v).getLsbD j =
      if 32 * k ≤ j ∧ j < 32 * k + 32 then v.getLsbD (j - 32 * k) else blk.getLsbD j := by
  have hones : ∀ i, (0xFFFFFFFF#128).getLsbD i = decide (i < 32) := by
    intro i
    by_cases hi : i < 128
    · have := (show ∀ i : Fin 128, (0xFFFFFFFF#128).getLsbD i = decide (i.val < 32) by decide) ⟨i, hi⟩
      simpa using this
    · rw [BitVec.getLsbD_of_ge _ _ (by omega)]; simp; omega
  simp only [setBlockWord, BitVec.getLsbD_or, BitVec.getLsbD_and, BitVec.getLsbD_not, BitVec.getLsbD_shiftLeft,
    BitVec.getLsbD_setWidth, hones, hj]
  by_cases h1 : 32 * k ≤ j
  · by_cases h2 : j < 32 * k + 32
    · have h3 : ¬ j < 32 * k := by omega
      have h4 : j - 32 * k < 32 := by omega
      have h5 : j - 32 * k < 128 := by omega
      simp [h1, h2, h3, h4, h5]
    · have h3 : ¬ j < 32 * k := by omega
      have h4 : ¬ j - 32 * k < 32 := by omega
      simp [h1, h2, h3, h4, BitVec.getLsbD_of_ge v (j - 32 * k) (by omega)]
  · have h3 : j < 32 * k := by omega
    simp [h1, h3]

/-- The leading-zero count of a nonzero `m` of `n` bits brings its top bit to bit `n - 1` (R255). -/
theorem leadingZeros_spec (n m : Nat) (h0 : 0 < m) (h1 : m < 2 ^ n) :
    leadingZeros n m < n ∧ 2 ^ (n - 1) ≤ m * 2 ^ leadingZeros n m ∧ m * 2 ^ leadingZeros n m < 2 ^ n := by
  induction n with
  | zero => simp at h1; omega
  | succ n ih =>
    simp only [leadingZeros]
    by_cases ht : m.testBit n
    · have := Nat.ge_two_pow_of_testBit ht
      simp [ht, this, h1]
    · have hlt : m < 2 ^ n := by
        by_contra hc
        have hd : m / 2 ^ n = 1 := by
          rw [Nat.div_eq_iff (by positivity)]
          rw [pow_succ] at h1
          constructor <;> omega
        exact ht (by simp [Nat.testBit, Nat.shiftRight_eq_div_pow, hd])
      obtain ⟨a, b, c⟩ := ih hlt
      have hn : 1 ≤ n := by omega
      obtain ⟨k, rfl⟩ : ∃ k, n = k + 1 := ⟨n - 1, by omega⟩
      simp only [ht, Bool.false_eq_true, if_false, Nat.add_sub_cancel] at *
      have e : m * 2 ^ (1 + leadingZeros (k + 1) m) = 2 * (m * 2 ^ leadingZeros (k + 1) m) := by
        rw [pow_add]; ring
      rw [e]
      refine ⟨by omega, ?_, ?_⟩
      · rw [pow_succ]; omega
      · rw [pow_succ 2 (k + 1)]; omega

end Sys2Proof.Machine
end

