-- ==== Sys2Proof/Laws/State.lean ====
section
/-! SUPPORT. One lemma per field per state update: what each shared update writes and what it keeps. The
decode lemmas are about a state whose ParsedBlock is present, as it is inside a decode command (R33). -/

namespace Sys2Proof.Machine

@[simp] theorem raiseFault_cmd (c : Cause) (s : State) : (raiseFault c s).cmd = s.cmd := rfl
@[simp] theorem raiseFault_status (c : Cause) (s : State) : (raiseFault c s).status = statusWithFault s.status c :=
  rfl
@[simp] theorem raiseFault_arg0 (c : Cause) (s : State) : (raiseFault c s).arg0 = s.arg0 := rfl
@[simp] theorem raiseFault_arg1 (c : Cause) (s : State) : (raiseFault c s).arg1 = s.arg1 := rfl
@[simp] theorem raiseFault_res (c : Cause) (s : State) : (raiseFault c s).res = s.res := rfl
@[simp] theorem raiseFault_blk (c : Cause) (s : State) : (raiseFault c s).blk = s.blk := rfl
@[simp] theorem raiseFault_outf (c : Cause) (s : State) : (raiseFault c s).outf = s.outf := rfl
@[simp] theorem raiseFault_outb (c : Cause) (s : State) : (raiseFault c s).outb = s.outb := rfl
@[simp] theorem raiseFault_parsed (c : Cause) (s : State) : (raiseFault c s).parsed = s.parsed := rfl
@[simp] theorem raiseFault_sf16Neg (c : Cause) (s : State) : (raiseFault c s).sf16Neg = s.sf16Neg := rfl
@[simp] theorem raiseFault_hostIn (c : Cause) (s : State) : (raiseFault c s).hostIn = s.hostIn := rfl
@[simp] theorem raiseFault_readLog (c : Cause) (s : State) : (raiseFault c s).readLog = s.readLog := rfl

@[simp] theorem takeReset_cmd (d : ResetDraw) (s : State) : (takeReset d s).cmd = 0 := rfl
@[simp] theorem takeReset_status (d : ResetDraw) (s : State) : (takeReset d s).status = 0 := rfl
@[simp] theorem takeReset_arg0 (d : ResetDraw) (s : State) : (takeReset d s).arg0 = d.arg0 := rfl
@[simp] theorem takeReset_arg1 (d : ResetDraw) (s : State) : (takeReset d s).arg1 = d.arg1 := rfl
@[simp] theorem takeReset_res (d : ResetDraw) (s : State) : (takeReset d s).res = d.res := rfl
@[simp] theorem takeReset_blk (d : ResetDraw) (s : State) : (takeReset d s).blk = d.blk := rfl
@[simp] theorem takeReset_outf (d : ResetDraw) (s : State) : (takeReset d s).outf = d.outf := rfl
@[simp] theorem takeReset_outb (d : ResetDraw) (s : State) : (takeReset d s).outb = d.outb := rfl
@[simp] theorem takeReset_parsed (d : ResetDraw) (s : State) : (takeReset d s).parsed = none := rfl
@[simp] theorem takeReset_sf16Neg (d : ResetDraw) (s : State) : (takeReset d s).sf16Neg = s.sf16Neg := rfl
@[simp] theorem takeReset_hostIn (d : ResetDraw) (s : State) : (takeReset d s).hostIn = s.hostIn := rfl
@[simp] theorem takeReset_readLog (d : ResetDraw) (s : State) : (takeReset d s).readLog = s.readLog := rfl

@[simp] theorem writeRes_cmd (v : BitVec 64) (s : State) : (writeRes v s).cmd = s.cmd := rfl
@[simp] theorem writeRes_status (v : BitVec 64) (s : State) : (writeRes v s).status = s.status := rfl
@[simp] theorem writeRes_arg0 (v : BitVec 64) (s : State) : (writeRes v s).arg0 = s.arg0 := rfl
@[simp] theorem writeRes_arg1 (v : BitVec 64) (s : State) : (writeRes v s).arg1 = s.arg1 := rfl
@[simp] theorem writeRes_res (v : BitVec 64) (s : State) : (writeRes v s).res = v := rfl
@[simp] theorem writeRes_blk (v : BitVec 64) (s : State) : (writeRes v s).blk = s.blk := rfl
@[simp] theorem writeRes_outf (v : BitVec 64) (s : State) : (writeRes v s).outf = s.outf := rfl
@[simp] theorem writeRes_outb (v : BitVec 64) (s : State) : (writeRes v s).outb = s.outb := rfl
@[simp] theorem writeRes_parsed (v : BitVec 64) (s : State) : (writeRes v s).parsed = s.parsed := rfl
@[simp] theorem writeRes_sf16Neg (v : BitVec 64) (s : State) : (writeRes v s).sf16Neg = s.sf16Neg := rfl
@[simp] theorem writeRes_hostIn (v : BitVec 64) (s : State) : (writeRes v s).hostIn = s.hostIn := rfl
@[simp] theorem writeRes_readLog (v : BitVec 64) (s : State) : (writeRes v s).readLog = s.readLog := rfl

@[simp] theorem beginDecode_cmd (pb : ParsedBlock) (s : State) : (beginDecode pb s).cmd = s.cmd := rfl
@[simp] theorem beginDecode_status (pb : ParsedBlock) (s : State) : (beginDecode pb s).status = s.status :=
  rfl
@[simp] theorem beginDecode_arg0 (pb : ParsedBlock) (s : State) : (beginDecode pb s).arg0 = s.arg0 := rfl
@[simp] theorem beginDecode_arg1 (pb : ParsedBlock) (s : State) : (beginDecode pb s).arg1 = s.arg1 := rfl
@[simp] theorem beginDecode_res (pb : ParsedBlock) (s : State) : (beginDecode pb s).res = s.res := rfl
@[simp] theorem beginDecode_blk (pb : ParsedBlock) (s : State) : (beginDecode pb s).blk = s.blk := rfl
@[simp] theorem beginDecode_outf (pb : ParsedBlock) (s : State) : (beginDecode pb s).outf = s.outf := rfl
@[simp] theorem beginDecode_outb (pb : ParsedBlock) (s : State) : (beginDecode pb s).outb = s.outb := rfl
@[simp] theorem beginDecode_parsed (pb : ParsedBlock) (s : State) : (beginDecode pb s).parsed = some pb := rfl
@[simp] theorem beginDecode_sf16Neg (pb : ParsedBlock) (s : State) : (beginDecode pb s).sf16Neg = s.sf16Neg :=
  rfl
@[simp] theorem beginDecode_hostIn (pb : ParsedBlock) (s : State) : (beginDecode pb s).hostIn = s.hostIn :=
  rfl
@[simp] theorem beginDecode_readLog (pb : ParsedBlock) (s : State) : (beginDecode pb s).readLog = s.readLog :=
  rfl

@[simp] theorem returnWord_cmd (v : Word) (s : State) : (returnWord v s).cmd = s.cmd := rfl
@[simp] theorem returnWord_status (v : Word) (s : State) : (returnWord v s).status = s.status := rfl
@[simp] theorem returnWord_arg0 (v : Word) (s : State) : (returnWord v s).arg0 = s.arg0 := rfl
@[simp] theorem returnWord_arg1 (v : Word) (s : State) : (returnWord v s).arg1 = s.arg1 := rfl
@[simp] theorem returnWord_res (v : Word) (s : State) : (returnWord v s).res = s.res := rfl
@[simp] theorem returnWord_blk (v : Word) (s : State) : (returnWord v s).blk = s.blk := rfl
@[simp] theorem returnWord_outf (v : Word) (s : State) : (returnWord v s).outf = s.outf := rfl
@[simp] theorem returnWord_outb (v : Word) (s : State) : (returnWord v s).outb = s.outb := rfl
@[simp] theorem returnWord_parsed (v : Word) (s : State) : (returnWord v s).parsed = s.parsed := rfl
@[simp] theorem returnWord_sf16Neg (v : Word) (s : State) : (returnWord v s).sf16Neg = s.sf16Neg := rfl
@[simp] theorem returnWord_hostIn (v : Word) (s : State) : (returnWord v s).hostIn = s.hostIn := rfl
@[simp] theorem returnWord_readLog (v : Word) (s : State) : (returnWord v s).readLog = v :: s.readLog := rfl

@[simp] theorem formatBc6h_cmd (s : State) : (formatBc6h s).cmd = s.cmd := by
  unfold formatBc6h; split <;> rfl
@[simp] theorem formatBc6h_status (s : State) : (formatBc6h s).status = s.status := by
  unfold formatBc6h; split <;> rfl
@[simp] theorem formatBc6h_arg0 (s : State) : (formatBc6h s).arg0 = s.arg0 := by
  unfold formatBc6h; split <;> rfl
@[simp] theorem formatBc6h_arg1 (s : State) : (formatBc6h s).arg1 = s.arg1 := by
  unfold formatBc6h; split <;> rfl
@[simp] theorem formatBc6h_res (s : State) : (formatBc6h s).res = s.res := by
  unfold formatBc6h; split <;> rfl
@[simp] theorem formatBc6h_blk (s : State) : (formatBc6h s).blk = s.blk := by
  unfold formatBc6h; split <;> rfl
@[simp] theorem formatBc6h_outf (s : State) (pb : ParsedBlock) (h : s.parsed = some pb) :
    (formatBc6h s).outf = bc6hOutput s.sf16Neg pb := by simp [formatBc6h, h]
@[simp] theorem formatBc6h_outb (s : State) : (formatBc6h s).outb = s.outb := by
  unfold formatBc6h; split <;> rfl
@[simp] theorem formatBc6h_parsed (s : State) : (formatBc6h s).parsed = s.parsed := by
  unfold formatBc6h; split <;> rfl
@[simp] theorem formatBc6h_sf16Neg (s : State) : (formatBc6h s).sf16Neg = s.sf16Neg := by
  unfold formatBc6h; split <;> rfl
@[simp] theorem formatBc6h_hostIn (s : State) : (formatBc6h s).hostIn = s.hostIn := by
  unfold formatBc6h; split <;> rfl
@[simp] theorem formatBc6h_readLog (s : State) : (formatBc6h s).readLog = s.readLog := by
  unfold formatBc6h; split <;> rfl

@[simp] theorem formatBc7_cmd (s : State) : (formatBc7 s).cmd = s.cmd := by
  unfold formatBc7; split <;> rfl
@[simp] theorem formatBc7_status (s : State) : (formatBc7 s).status = s.status := by
  unfold formatBc7; split <;> rfl
@[simp] theorem formatBc7_arg0 (s : State) : (formatBc7 s).arg0 = s.arg0 := by
  unfold formatBc7; split <;> rfl
@[simp] theorem formatBc7_arg1 (s : State) : (formatBc7 s).arg1 = s.arg1 := by
  unfold formatBc7; split <;> rfl
@[simp] theorem formatBc7_res (s : State) : (formatBc7 s).res = s.res := by
  unfold formatBc7; split <;> rfl
@[simp] theorem formatBc7_blk (s : State) : (formatBc7 s).blk = s.blk := by
  unfold formatBc7; split <;> rfl
@[simp] theorem formatBc7_outf (s : State) : (formatBc7 s).outf = s.outf := by
  unfold formatBc7; split <;> rfl
@[simp] theorem formatBc7_outb (s : State) (pb : ParsedBlock) (h : s.parsed = some pb) :
    (formatBc7 s).outb = bc7Output pb := by simp [formatBc7, h]
@[simp] theorem formatBc7_parsed (s : State) : (formatBc7 s).parsed = s.parsed := by
  unfold formatBc7; split <;> rfl
@[simp] theorem formatBc7_sf16Neg (s : State) : (formatBc7 s).sf16Neg = s.sf16Neg := by
  unfold formatBc7; split <;> rfl
@[simp] theorem formatBc7_hostIn (s : State) : (formatBc7 s).hostIn = s.hostIn := by
  unfold formatBc7; split <;> rfl
@[simp] theorem formatBc7_readLog (s : State) : (formatBc7 s).readLog = s.readLog := by
  unfold formatBc7; split <;> rfl

@[simp] theorem endDecode_cmd (s : State) : (endDecode s).cmd = s.cmd := by
  unfold endDecode; split <;> rfl
@[simp] theorem endDecode_status (s : State) (pb : ParsedBlock) (h : s.parsed = some pb) :
    (endDecode s).status = statusWithInvalid s.status (!pb.valid) := by simp [endDecode, h]
@[simp] theorem endDecode_arg0 (s : State) : (endDecode s).arg0 = s.arg0 := by
  unfold endDecode; split <;> rfl
@[simp] theorem endDecode_arg1 (s : State) : (endDecode s).arg1 = s.arg1 := by
  unfold endDecode; split <;> rfl
@[simp] theorem endDecode_res (s : State) : (endDecode s).res = s.res := by
  unfold endDecode; split <;> rfl
@[simp] theorem endDecode_blk (s : State) : (endDecode s).blk = s.blk := by
  unfold endDecode; split <;> rfl
@[simp] theorem endDecode_outf (s : State) : (endDecode s).outf = s.outf := by
  unfold endDecode; split <;> rfl
@[simp] theorem endDecode_outb (s : State) : (endDecode s).outb = s.outb := by
  unfold endDecode; split <;> rfl
@[simp] theorem endDecode_parsed (s : State) : (endDecode s).parsed = none := by
  unfold endDecode; split
  · assumption
  · rfl
@[simp] theorem endDecode_sf16Neg (s : State) : (endDecode s).sf16Neg = s.sf16Neg := by
  unfold endDecode; split <;> rfl
@[simp] theorem endDecode_hostIn (s : State) : (endDecode s).hostIn = s.hostIn := by
  unfold endDecode; split <;> rfl
@[simp] theorem endDecode_readLog (s : State) : (endDecode s).readLog = s.readLog := by
  unfold endDecode; split <;> rfl

end Sys2Proof.Machine
end

