-- ==== Sys2Proof/Laws/Ops.lean ====
section
/-! SUPPORT. What the shared operations do, said once: the STATUS writes bit by bit (R22, R282, R313), the fault
entry (R310), the decode commands (R280), and the host port (R55, R70, R312, R314). -/

namespace Sys2Proof.Machine

/-! ## STATUS, bit by bit -/

/-- Bit `j` of STATUS after a fault: 1 at bit 0, the cause at bits 7:4, as before elsewhere. -/
theorem statusWithFault_getLsbD (w : Word) (c : Cause) (j : Nat) (hj : j < 32) :
    (statusWithFault w c).getLsbD j =
      if j = 0 then true else if 4 ≤ j ∧ j < 8 then (causeCode c).getLsbD (j - 4) else w.getLsbD j := by
  have key : ∀ k : Fin 32, (0xFFFFFF0E#32).getLsbD k = !(k.val = 0 || (4 ≤ k.val && k.val < 8)) ∧
      (0x1#32).getLsbD k = decide (k.val = 0) := by decide
  obtain ⟨h1, h2⟩ := key ⟨j, hj⟩
  have e : (statusWithFault w c).getLsbD j =
      ((w.getLsbD j && (0xFFFFFF0E#32).getLsbD j) || (0x1#32).getLsbD j ||
        (decide (j < 32) && !decide (j < 4) && (decide (j - 4 < 32) && (causeCode c).getLsbD (j - 4)))) := by
    change ((w &&& 0xFFFFFF0E#32) ||| 0x1#32 ||| ((causeCode c).setWidth 32 <<< 4)).getLsbD j = _
    simp only [BitVec.getLsbD_or, BitVec.getLsbD_and, BitVec.getLsbD_shiftLeft, BitVec.getLsbD_setWidth]
  rw [e, h1, h2]
  by_cases a : j = 0
  · simp [a]
  · by_cases b : 4 ≤ j
    · by_cases d : j < 8
      · have f : j - 4 < 32 := by omega
        simp [a, b, d, hj, Nat.not_lt.2 b, f]
      · simp [a, b, d, BitVec.getLsbD_of_ge (causeCode c) (j - 4) (by omega)]
    · simp [a, b, Nat.lt_of_not_le b]

/-- Bit `j` of STATUS after a decode command: INVALID at bit 1, as before elsewhere. -/
theorem statusWithInvalid_getLsbD (w : Word) (b : Bool) (j : Nat) (hj : j < 32) :
    (statusWithInvalid w b).getLsbD j = if j = 1 then b else w.getLsbD j := by
  have key : ∀ k : Fin 32, (0xFFFFFFFD#32).getLsbD k = !(k.val = 1) ∧
      (0x2#32).getLsbD k = decide (k.val = 1) := by decide
  obtain ⟨h1, h2⟩ := key ⟨j, hj⟩
  have e : (statusWithInvalid w b).getLsbD j =
      ((w.getLsbD j && (0xFFFFFFFD#32).getLsbD j) || (b && (0x2#32).getLsbD j)) := by
    cases b
    · change ((w &&& 0xFFFFFFFD#32) ||| 0x0#32).getLsbD j = _
      simp only [BitVec.getLsbD_or, BitVec.getLsbD_and, BitVec.getLsbD_zero, Bool.or_false, Bool.false_and]
    · change ((w &&& 0xFFFFFFFD#32) ||| 0x2#32).getLsbD j = _
      simp only [BitVec.getLsbD_or, BitVec.getLsbD_and, Bool.true_and]
  rw [e, h1, h2]
  cases b <;> by_cases a : j = 1 <;> simp [a]

theorem statusWithFault_fault (w : Word) (c : Cause) : statusFault (statusWithFault w c) = true := by
  rw [statusFault, statusWithFault_getLsbD _ _ _ (by omega), if_pos rfl]

theorem statusWithFault_cause (w : Word) (c : Cause) : statusCause (statusWithFault w c) = causeCode c := by
  ext k hk
  have h8 : 4 + k < 8 := by omega
  simp only [statusCause, BitVec.getElem_extractLsb', statusWithFault_getLsbD _ _ (4 + k) (by omega)]
  simp [h8, BitVec.getLsbD_eq_getElem hk]

theorem statusWithFault_invalid (w : Word) (c : Cause) :
    statusInvalid (statusWithFault w c) = statusInvalid w := by
  rw [statusInvalid, statusWithFault_getLsbD _ _ _ (by omega), if_neg (by omega), if_neg (by omega)]; rfl

theorem statusWithInvalid_fault (w : Word) (b : Bool) :
    statusFault (statusWithInvalid w b) = statusFault w := by
  rw [statusFault, statusWithInvalid_getLsbD _ _ _ (by omega), if_neg (by omega)]; rfl

theorem statusWithInvalid_cause (w : Word) (b : Bool) :
    statusCause (statusWithInvalid w b) = statusCause w := by
  ext k hk
  simp only [statusCause, BitVec.getElem_extractLsb', statusWithInvalid_getLsbD _ _ (4 + k) (by omega)]
  rw [if_neg (by omega)]

theorem statusWithInvalid_invalid (w : Word) (b : Bool) : statusInvalid (statusWithInvalid w b) = b := by
  rw [statusInvalid, statusWithInvalid_getLsbD _ _ _ (by omega), if_pos rfl]

/-! ## Faults -/

theorem raiseFault_faulted (c : Cause) (s : State) : (raiseFault c s).faulted = true :=
  statusWithFault_fault s.status c

/-- A fault entry is a next state, and enters the fault of its cause from `s` (R310, R313). -/
theorem faultWith_faults (c : Cause) (s : State) : Faults (faultWith c s) s (causeCode c) := by
  refine ⟨raiseFault c s, rfl, rfl, statusWithFault_fault s.status c, statusWithFault_cause s.status c, ?_⟩
  intro j hj h0 h1
  rw [raiseFault_status, statusWithFault_getLsbD _ _ _ hj]
  simp only [h0, if_false]
  rw [if_neg]; omega

/-! ## Decode commands -/

/-- A BC6H decode of a parsed block, all at once: OUTF, INVALID, and nothing else (R280, R282, R289). -/
theorem runBc6h_eq (pb : ParsedBlock) (s : State) :
    runBc6h pb s = .next { s with outf := bc6hOutput s.sf16Neg pb, parsed := none,
                                  status := statusWithInvalid s.status (!pb.valid) } := rfl

/-- A BC7 decode of a parsed block, all at once: OUTB, INVALID, and nothing else (R280, R282, R289). -/
theorem runBc7_eq (pb : ParsedBlock) (s : State) :
    runBc7 pb s = .next { s with outb := bc7Output pb, parsed := none,
                                 status := statusWithInvalid s.status (!pb.valid) } := rfl

theorem invalidWritten_statusWithInvalid (w : Word) (b : Bool) : InvalidWritten w (statusWithInvalid w b) b := by
  refine ⟨by rw [statusWithInvalid_getLsbD _ _ _ (by omega)]; rfl, ?_⟩
  intro j hj h1
  rw [statusWithInvalid_getLsbD _ _ _ hj, if_neg h1]

/-! ## The host port -/

/-- With no event pending the instance holds its state (R321). -/
theorem step_idle (s : State) (h : s.hostIn = []) : step s = .next s := by
  simp [step, nextEvent, h]

/-- A step is its next host event (R354). -/
theorem step_event (s : State) (e : HostEvent) (rest : List HostEvent) :
    step { s with hostIn := e :: rest } = hostEvent e { s with hostIn := rest } := rfl

/-- A write to a faulted instance is ignored (R314). -/
theorem hostWrite_faulted (width : Nat) (off : BitVec 10) (v : Word) (s : State) (h : s.faulted = true) :
    hostWrite width off v s = .next s := by
  simp [hostWrite, h]

/-- A write to a register of an instance that is not faulted (R57). -/
theorem hostWrite_reg (width : Nat) (off : BitVec 10) (v : Word) (s : State) (r : HostReg)
    (h : s.faulted = false) (hr : accessReg width off = some r) : hostWrite width off v s = writeReg r v s := by
  simp [hostWrite, h, hr]

/-- A bad write of an instance that is not faulted (R55). -/
theorem hostWrite_bad (width : Nat) (off : BitVec 10) (v : Word) (s : State)
    (h : s.faulted = false) (hr : accessReg width off = none) :
    hostWrite width off v s = faultWith .badAccess s := by
  simp [hostWrite, h, hr]

/-- A read of a register (R56, R314). -/
theorem hostRead_reg (width : Nat) (off : BitVec 10) (s : State) (r : HostReg)
    (hr : accessReg width off = some r) : hostRead width off s = .next (returnWord (readReg r s) s) := by
  simp [hostRead, hr]

/-- A command word that decodes is `exec` of its instruction with the word in CMD (R70). -/
theorem runCommand_ok (w : Word) (s : State) (i : Instr) (h : decodeCommand w = .ok i) :
    runCommand w s = exec i { s with cmd := w } := by
  simp [runCommand, h]

/-- A command word with a reserved bit set faults with the word in CMD (R74). -/
theorem runCommand_error (w : Word) (s : State) (h : decodeCommand w = .error .reservedField) :
    runCommand w s = faultWith .reservedField { s with cmd := w } := by
  simp [runCommand, h]

end Sys2Proof.Machine
end

