-- ==== Sys2Proof/Laws/Exec.lean ====
section
/-! SUPPORT. One lemma per meaning, or per group of meanings of one shape: which next state it answers where its
operands are in their domain and where they are not. Provers cite these and do not unfold `exec`. -/

namespace Sys2Proof.Machine

/-! ## Modes and their numbers -/

theorem bc6hModeOfId_modeId (m : Bc6hMode) : bc6hModeOfId (bc6hModeId m) = some m := by
  cases m <;> rfl

theorem bc6hModeId_of_modeOfId (id : Nat) (m : Bc6hMode) (h : bc6hModeOfId id = some m) : bc6hModeId m = id := by
  unfold bc6hModeOfId at h
  split at h <;> simp only [Option.some.injEq, reduceCtorEq] at h <;> subst h <;> rfl

theorem bc7ModeOfId_modeId (m : Bc7Mode) : bc7ModeOfId (bc7ModeId m) = some m := by
  cases m <;> rfl

theorem bc7ModeId_of_modeOfId (id : Nat) (m : Bc7Mode) (h : bc7ModeOfId id = some m) : bc7ModeId m = id := by
  unfold bc7ModeOfId at h
  split at h <;> simp only [Option.some.injEq, reduceCtorEq] at h <;> subst h <;> rfl

/-! ## Host commands -/

theorem exec_rdbit (off : BitVec 7) (s : State) :
    exec (.rdbit off) s = .next (writeRes (BitVec.ofNat 64 (memRead s.blk off.toNat 1)) s) := rfl

theorem exec_rdbits_inRange (off len : BitVec 7) (s : State) (h : readInRange off.toNat len.toNat = true) :
    exec (.rdbits off len) s = .next (writeRes (BitVec.ofNat 64 (memRead s.blk off.toNat len.toNat)) s) := by
  simp [exec, execRdbits, h]

theorem exec_rdbits_outOfRange (off len : BitVec 7) (s : State) (h : readInRange off.toNat len.toNat = false) :
    exec (.rdbits off len) s = faultWith .readRange s := by
  simp [exec, execRdbits, h]

theorem exec_modeq_bc6h (s : State) : exec (.modeq .bc6h) s = .next (writeRes (modeqBc6h s.blk) s) := rfl

theorem exec_modeq_bc7 (s : State) : exec (.modeq .bc7) s = .next (writeRes (modeqBc7 s.blk) s) := rfl

theorem exec_partq_inDomain (ns : BitVec 2) (p : BitVec 6) (i : BitVec 4) (s : State)
    (h : partqInDomain ns.toNat p.toNat = true) :
    exec (.partq ns p i) s = .next (writeRes (partqResult ns.toNat p.toNat i.toNat) s) := by
  simp [exec, execPartq, h]

theorem exec_partq_outOfDomain (ns : BitVec 2) (p : BitVec 6) (i : BitVec 4) (s : State)
    (h : partqInDomain ns.toNat p.toNat = false) : exec (.partq ns p i) s = faultWith .badOperand s := by
  simp [exec, execPartq, h]

theorem exec_interp_inDomain (idx : BitVec 4) (prec : BitVec 3) (s : State)
    (h : interpInDomain idx.toNat prec.toNat = true) :
    exec (.interp idx prec) s = .next (writeRes (BitVec.ofInt 64
      (interpolate s.arg0.toInt s.arg1.toInt idx.toNat prec.toNat)) s) := by
  simp [exec, execInterp, h, argInt0, argInt1]

theorem exec_interp_outOfDomain (idx : BitVec 4) (prec : BitVec 3) (s : State)
    (h : interpInDomain idx.toNat prec.toNat = false) : exec (.interp idx prec) s = faultWith .badOperand s := by
  simp [exec, execInterp, h]

theorem exec_unq6_inDomain (n : BitVec 5) (sg : Bool) (s : State)
    (h : unq6InDomain n.toNat sg s.arg0.toInt = true) :
    exec (.unq6 n sg) s = .next (writeRes (BitVec.ofInt 64 (unquantize6 s.arg0.toInt n.toNat sg)) s) := by
  simp [exec, execUnq6, argInt0, h]

theorem exec_unq6_outOfDomain (n : BitVec 5) (sg : Bool) (s : State)
    (h : unq6InDomain n.toNat sg s.arg0.toInt = false) : exec (.unq6 n sg) s = faultWith .badOperand s := by
  simp [exec, execUnq6, argInt0, h]

theorem exec_finish_inDomain (sg : Bool) (s : State) (h : finishInDomain sg s.arg0.toInt = true) :
    exec (.finish sg) s =
      .next (writeRes (finishResult (finishUnquantize s.sf16Neg s.arg0.toInt sg)) s) := by
  simp [exec, execFinish, argInt0, h]

theorem exec_finish_outOfDomain (sg : Bool) (s : State) (h : finishInDomain sg s.arg0.toInt = false) :
    exec (.finish sg) s = faultWith .badOperand s := by
  simp [exec, execFinish, argInt0, h]

theorem exec_expand7_inDomain (n : BitVec 4) (v : BitVec 8) (s : State)
    (h : expand7InDomain n.toNat v.toNat = true) :
    exec (.expand7 n v) s = .next (writeRes (BitVec.ofNat 64 (expand7 v.toNat n.toNat)) s) := by
  simp [exec, execExpand7, h]

theorem exec_expand7_outOfDomain (n : BitVec 4) (v : BitVec 8) (s : State)
    (h : expand7InDomain n.toNat v.toNat = false) : exec (.expand7 n v) s = faultWith .badOperand s := by
  simp [exec, execExpand7, h]

/-! ## Block instructions and the commands that run them -/

theorem exec_ofBc6h (m : Bc6hMode) (f : Bc6hFields) (s : State) :
    exec (.ofBc6h m f) s = runBc6h (parseBc6h m (blockSigned s) f) s := by
  cases m <;> rfl

theorem exec_ofBc6hReserved (k : Bc6hReserved) (rest : BitVec 123) (s : State) :
    exec (.ofBc6hReserved k rest) s = runBc6h (parseInvalid (bc6hReservedId k) (blockSigned s)) s := by
  cases k <;> rfl

theorem exec_ofBc7 (m : Bc7Mode) (f : Bc7Fields) (s : State) :
    exec (.ofBc7 m f) s = runBc7 (parseBc7 m f) s := by
  cases m <;> rfl

theorem exec_bc7Reserved (rest : BitVec 120) (s : State) :
    exec (.bc7Reserved rest) s = runBc7 (parseInvalid 8 false) s := rfl

theorem exec_decbc6u (s : State) : exec .decbc6u s = decodeBlkBc6h false s := rfl

theorem exec_decbc6s (s : State) : exec .decbc6s s = decodeBlkBc6h true s := rfl

theorem decodeBlkBc6h_valid (signed : Bool) (s : State) (m : Bc6hMode)
    (h : bc6hModeOfId (bc6hSelector s.blk).1 = some m) :
    decodeBlkBc6h signed s = runBc6h (parseBc6h m signed (bc6hFieldsOf m s.blk)) s := by
  simp [decodeBlkBc6h, h, decodeBc6hAs]

theorem decodeBlkBc6h_invalid (signed : Bool) (s : State) (h : bc6hModeOfId (bc6hSelector s.blk).1 = none) :
    decodeBlkBc6h signed s = runBc6h (parseInvalid (bc6hSelector s.blk).1 signed) s := by
  simp [decodeBlkBc6h, h, rejectBc6h]

theorem exec_decbc7_valid (s : State) (m : Bc7Mode) (h : bc7ModeOfId (bc7Selector s.blk) = some m) :
    exec .decbc7 s = runBc7 (parseBc7 m (bc7FieldsOf m s.blk)) s := by
  simp [exec, execDecbc7, h, decodeBc7As]

theorem exec_decbc7_invalid (s : State) (h : bc7ModeOfId (bc7Selector s.blk) = none) :
    exec .decbc7 s = runBc7 (parseInvalid 8 false) s := by
  simp [exec, execDecbc7, h, rejectBc7]

end Sys2Proof.Machine
end

