-- ==== Sys2Proof/Laws/HostProgram.lean ====
section
/-! SUPPORT. Host programs: a program expands line by line (R78). -/

namespace Sys2Proof.Machine

@[simp] theorem expandProgram_nil : expandProgram [] = some [] := rfl

theorem expandProgram_cons (l : HostLine) (rest : List HostLine) :
    expandProgram (l :: rest) =
      (expandLine l).bind fun a => (expandProgram rest).map fun b => a ++ b := by
  rw [expandProgram]
  cases expandLine l <;> cases expandProgram rest <;> rfl

@[simp] theorem regWrite_blkW (k : Fin 4) (v : Word) :
    regWrite (.blkW k) v = .write 32 (BitVec.ofNat 10 (0x020 + 4 * k.val)) v := rfl

end Sys2Proof.Machine
end

