-- ==== Sys2Proof/Laws/Interpolator.lean ====
section
/-! SUPPORT. What index extraction reads (R236): the bits of a texel's index, and its bound. -/

namespace Sys2Proof.Machine

/-- Bit `j` of a texel's index is bit `j` of its part of the field, and 0 above it. -/
theorem colorIndex_testBit (field i w ns p j : Nat) :
    (colorIndex field i w ns p).testBit j =
      (decide (j < indexBits i w ns p) && field.testBit (indexOffset i w ns p + j)) := by
  simp [colorIndex, Nat.testBit_mod_two_pow, Nat.testBit_shiftRight]

theorem colorIndex_lt (field i w ns p : Nat) : colorIndex field i w ns p < 2 ^ indexBits i w ns p :=
  Nat.mod_lt _ (by positivity)

/-- An anchor's index takes one bit fewer. -/
theorem indexBits_anchor {i w ns p : Nat} (h : i ∈ anchors ns p) : indexBits i w ns p = w - 1 := if_pos h

theorem indexBits_other {i w ns p : Nat} (h : i ∉ anchors ns p) : indexBits i w ns p = w := if_neg h

end Sys2Proof.Machine
end

