-- ==== Sys2Proof/Laws/Layout.lean ====
section
/-! SUPPORT. Gathering a field from a block and scattering fields into one, bit by bit, for any list of layout
rows; and the conditions under which the two undo one another. -/

namespace Sys2Proof.Machine

variable {F : Type} [DecidableEq F]

/-- Row `r` holds bit `j` of its field. -/
def LayoutRow.holdsBit (r : LayoutRow F) (j : Nat) : Bool := r.bit ≤ j && j < r.bit + r.len

/-- Row `r` takes block bit `p`. -/
def LayoutRow.takesBit (r : LayoutRow F) (p : Nat) : Bool := r.lo ≤ p && p < r.lo + r.len

/-- Bit `j` of a gathered field is set when a row of that field holds it and its block bit is set (R173). -/
theorem gather_testBit (blk : Block) (rows : List (LayoutRow F)) (x : F) (j : Nat) :
    (gather blk rows x).testBit j = true ↔
      ∃ r ∈ rows, r.field = x ∧ r.holdsBit j = true ∧ blk.getLsbD (r.lo + (j - r.bit)) = true := by
  induction rows with
  | nil => simp [gather]
  | cons r rows ih =>
    have e : gather blk (r :: rows) x =
        if r.field = x then (memRead blk r.lo r.len <<< r.bit) ||| gather blk rows x else gather blk rows x := rfl
    rw [e]
    by_cases hf : r.field = x
    · simp only [hf, if_true, Nat.testBit_or, Bool.or_eq_true, ih, List.mem_cons, exists_eq_or_imp]
      simp only [Nat.testBit_shiftLeft, memRead_testBit, LayoutRow.holdsBit, Bool.and_eq_true, decide_eq_true_eq,
        true_and]
      constructor
      · rintro (⟨h1, h2, h3⟩ | h)
        · exact .inl ⟨⟨h1, by omega⟩, h3⟩
        · exact .inr h
      · rintro (⟨⟨h1, h2⟩, h3⟩ | h)
        · exact .inl ⟨h1, by omega, h3⟩
        · exact .inr h
    · simp [hf, ih]

omit [DecidableEq F] in
/-- Bit `p` of the scattered fields is set when a row takes it and its field's bit is set. -/
theorem scatter_testBit (val : F → Nat) (rows : List (LayoutRow F)) (p : Nat) :
    (scatter val rows).testBit p = true ↔
      ∃ r ∈ rows, r.takesBit p = true ∧ (val r.field).testBit (r.bit + (p - r.lo)) = true := by
  induction rows with
  | nil => simp [scatter]
  | cons r rows ih =>
    have e : scatter val (r :: rows) =
        (((val r.field >>> r.bit) % 2 ^ r.len) <<< r.lo) ||| scatter val rows := rfl
    rw [e]
    simp only [Nat.testBit_or, Bool.or_eq_true, ih, List.mem_cons, exists_eq_or_imp]
    simp only [Nat.testBit_shiftLeft, Nat.testBit_mod_two_pow, Nat.testBit_shiftRight, LayoutRow.takesBit,
      Bool.and_eq_true, decide_eq_true_eq]
    constructor
    · rintro (⟨h1, h2, h3⟩ | h)
      · exact .inl ⟨⟨h1, by omega⟩, h3⟩
      · exact .inr h
    · rintro (⟨⟨h1, h2⟩, h3⟩ | h)
      · exact .inl ⟨h1, by omega, h3⟩
      · exact .inr h

/-- No two rows take the same block bit. -/
def disjointBits (rows : List (LayoutRow F)) : Prop :=
  rows.Pairwise fun a b => a.lo + a.len ≤ b.lo ∨ b.lo + b.len ≤ a.lo

/-- No two rows hold the same bit of one field. -/
def disjointFields (rows : List (LayoutRow F)) : Prop :=
  rows.Pairwise fun a b => a.field = b.field → a.bit + a.len ≤ b.bit ∨ b.bit + b.len ≤ a.bit

omit [DecidableEq F] in
/-- In a list whose rows are pairwise `R`, two different members are `R` one way or the other. -/
theorem eq_or_rel_of_pairwise {R : LayoutRow F → LayoutRow F → Prop} {rows : List (LayoutRow F)}
    (h : rows.Pairwise R) {a b : LayoutRow F} (ha : a ∈ rows) (hb : b ∈ rows) : a = b ∨ R a b ∨ R b a := by
  induction h with
  | nil => simp at ha
  | cons h1 _ ih =>
    rcases List.mem_cons.1 ha with rfl | ha' <;> rcases List.mem_cons.1 hb with rfl | hb'
    · exact .inl rfl
    · exact .inr (.inl (h1 _ hb'))
    · exact .inr (.inr (h1 _ ha'))
    · exact ih ha' hb'

/-- What is scattered is gathered back: the rows take different block bits, all above the selector, and hold
every bit the field's value has. -/
theorem gather_scatter (val : F → Nat) (rows : List (LayoutRow F)) (sel hdr : Nat) (x : F)
    (hsel : sel < 2 ^ hdr) (hdis : disjointBits rows)
    (hin : ∀ r ∈ rows, hdr ≤ r.lo ∧ r.lo + r.len ≤ 128)
    (hcov : ∀ j, (val x).testBit j = true → ∃ r ∈ rows, r.field = x ∧ r.holdsBit j = true) :
    gather (BitVec.ofNat 128 (sel ||| scatter val rows)) rows x = val x := by
  have key : ∀ r ∈ rows, ∀ j, r.holdsBit j = true →
      ((BitVec.ofNat 128 (sel ||| scatter val rows)).getLsbD (r.lo + (j - r.bit)) = true ↔
        (val r.field).testBit j = true) := by
    intro r hr j hj
    obtain ⟨h1, h2⟩ := hin r hr
    simp only [LayoutRow.holdsBit, Bool.and_eq_true, decide_eq_true_eq] at hj
    have hlt : r.lo + (j - r.bit) < 128 := by omega
    have hs : sel.testBit (r.lo + (j - r.bit)) = false :=
      Nat.testBit_lt_two_pow (Nat.lt_of_lt_of_le hsel (Nat.pow_le_pow_right (by omega) (by omega)))
    simp only [BitVec.getLsbD_ofNat, hlt, decide_true, Bool.true_and, Nat.testBit_or, hs, Bool.false_or,
      scatter_testBit]
    constructor
    · rintro ⟨r', hr', ht, hv⟩
      simp only [LayoutRow.takesBit, Bool.and_eq_true, decide_eq_true_eq] at ht
      rcases eq_or_rel_of_pairwise hdis hr hr' with rfl | h | h
      · have e : r.bit + (r.lo + (j - r.bit) - r.lo) = j := by omega
        rwa [e] at hv
      · omega
      · omega
    · intro hv
      refine ⟨r, hr, ?_, ?_⟩
      · simp only [LayoutRow.takesBit, Bool.and_eq_true, decide_eq_true_eq]; omega
      · have e : r.bit + (r.lo + (j - r.bit) - r.lo) = j := by omega
        rwa [e]
  apply Nat.eq_of_testBit_eq
  intro j
  rw [Bool.eq_iff_iff, gather_testBit]
  constructor
  · rintro ⟨r, hr, hf, hh, hb⟩
    rw [← hf]
    exact (key r hr j hh).1 hb
  · intro hv
    obtain ⟨r, hr, hf, hh⟩ := hcov j hv
    exact ⟨r, hr, hf, hh, (key r hr j hh).2 (by rw [hf]; exact hv)⟩

/-- What is gathered is scattered back: the rows hold different bits of their fields and take every block bit
from the selector up. -/
theorem scatter_gather (blk : Block) (rows : List (LayoutRow F)) (val : F → Nat) (hdr : Nat)
    (hval : ∀ x, val x = gather blk rows x) (hdis : disjointFields rows)
    (hin : ∀ r ∈ rows, hdr ≤ r.lo)
    (hcov : ∀ p, hdr ≤ p → p < 128 → ∃ r ∈ rows, r.takesBit p = true) (p : Nat) (hp : p < 128) :
    ((scatter val rows).testBit p = true ↔ hdr ≤ p ∧ blk.getLsbD p = true) := by
  rw [scatter_testBit]
  constructor
  · rintro ⟨r, hr, ht, hv⟩
    rw [hval, gather_testBit] at hv
    obtain ⟨r', hr', hf, hh, hb⟩ := hv
    have h1 := hin r hr
    simp only [LayoutRow.takesBit, LayoutRow.holdsBit, Bool.and_eq_true, decide_eq_true_eq] at ht hh
    rcases eq_or_rel_of_pairwise hdis hr hr' with rfl | h | h
    · have e : r.lo + (r.bit + (p - r.lo) - r.bit) = p := by omega
      rw [e] at hb
      exact ⟨by omega, hb⟩
    · have := h hf.symm; omega
    · have := h hf; omega
  · rintro ⟨h1, hb⟩
    obtain ⟨r, hr, ht⟩ := hcov p h1 hp
    refine ⟨r, hr, ht, ?_⟩
    rw [hval, gather_testBit]
    simp only [LayoutRow.takesBit, Bool.and_eq_true, decide_eq_true_eq] at ht
    refine ⟨r, hr, rfl, ?_, ?_⟩
    · simp only [LayoutRow.holdsBit, Bool.and_eq_true, decide_eq_true_eq]; omega
    · have e : r.lo + (r.bit + (p - r.lo) - r.bit) = p := by omega
      rwa [e]

/-- A gathered field has no bit above the highest its rows hold. -/
theorem gather_lt (blk : Block) (rows : List (LayoutRow F)) (x : F) (n : Nat)
    (h : ∀ r ∈ rows, r.field = x → r.bit + r.len ≤ n) : gather blk rows x < 2 ^ n := by
  apply Nat.lt_pow_two_of_testBit
  intro j hj
  by_contra hc
  obtain ⟨r, hr, hf, hh, _⟩ := (gather_testBit blk rows x j).1 (by simpa using hc)
  have := h r hr hf
  simp only [LayoutRow.holdsBit, Bool.and_eq_true, decide_eq_true_eq] at hh
  omega

/-- A field held by one row from its bit 0 is one cursor read. -/
theorem gather_eq_memRead (blk : Block) (rows : List (LayoutRow F)) (x : F) (r : LayoutRow F) (hr : r ∈ rows)
    (hf : r.field = x) (hb : r.bit = 0) (h : ∀ r' ∈ rows, r'.field = x → r' = r) :
    gather blk rows x = memRead blk r.lo r.len := by
  apply Nat.eq_of_testBit_eq
  intro j
  rw [Bool.eq_iff_iff, gather_testBit, memRead_testBit]
  simp only [Bool.and_eq_true, decide_eq_true_eq]
  constructor
  · rintro ⟨r', hr', hf', hh, hbit⟩
    obtain rfl := h r' hr' hf'
    simp only [LayoutRow.holdsBit, hb, Bool.and_eq_true, decide_eq_true_eq] at hh
    rw [hb] at hbit
    exact ⟨by omega, by simpa using hbit⟩
  · rintro ⟨h1, h2⟩
    refine ⟨r, hr, hf, ?_, ?_⟩
    · simp only [LayoutRow.holdsBit, hb, Bool.and_eq_true, decide_eq_true_eq]; omega
    · rw [hb]; simpa using h2

end Sys2Proof.Machine
end

