-- ==== Sys2Proof/Laws/PerInstr.lean ====
section
/-! SUPPORT. Per-instruction laws. The family `OpcodeBits`: the encoding of every instruction has the fixed bits
its row of the opcode table gives it (R71, R72, R81, R82, R101, R105). -/

namespace Sys2Proof.Laws.OpcodeBits

open Machine

/-- The number an encoding is, bit 0 its least significant bit. -/
def bitsOf : Encoded → Nat
  | .command w => w.toNat
  | .bc6hBlock b => b.toNat
  | .bc7Block b => b.toNat

/-- The mask and the match of each row of the opcode table, as the table writes them. -/
def tableRow : Instr → Nat × Nat
  | .nop => (0xFFFFFFFF, 0x00000000)
  | .rdbit _ => (0xFFFFF80F, 0x00000001)
  | .rdbits _ _ => (0xFFFC000F, 0x00000002)
  | .decbc6u => (0xFFFFFFFF, 0x00000003)
  | .decbc6s => (0xFFFFFFFF, 0x00000004)
  | .decbc7 => (0xFFFFFFFF, 0x00000005)
  | .modeq _ => (0xFFFFFFEF, 0x00000006)
  | .partq _ _ _ => (0xFFFF000F, 0x00000007)
  | .interp _ _ => (0xFFFFF80F, 0x00000008)
  | .unq6 _ _ => (0xFFFFFC0F, 0x00000009)
  | .finish _ => (0xFFFFFFEF, 0x0000000A)
  | .expand7 _ _ => (0xFFFF000F, 0x0000000B)
  | .reservedC _ => (0x0000000F, 0x0000000C)
  | .reservedD _ => (0x0000000F, 0x0000000D)
  | .reservedE _ => (0x0000000F, 0x0000000E)
  | .reservedF _ => (0x0000000F, 0x0000000F)
  | .bc6hMode00 _ => (0x03, 0x00)
  | .bc6hMode01 _ => (0x03, 0x01)
  | .bc6hMode02 _ => (0x1F, 0x02)
  | .bc6hMode06 _ => (0x1F, 0x06)
  | .bc6hMode0A _ => (0x1F, 0x0A)
  | .bc6hMode0E _ => (0x1F, 0x0E)
  | .bc6hMode12 _ => (0x1F, 0x12)
  | .bc6hMode16 _ => (0x1F, 0x16)
  | .bc6hMode1A _ => (0x1F, 0x1A)
  | .bc6hMode1E _ => (0x1F, 0x1E)
  | .bc6hMode03 _ => (0x1F, 0x03)
  | .bc6hMode07 _ => (0x1F, 0x07)
  | .bc6hMode0B _ => (0x1F, 0x0B)
  | .bc6hMode0F _ => (0x1F, 0x0F)
  | .bc6hReserved13 _ => (0x1F, 0x13)
  | .bc6hReserved17 _ => (0x1F, 0x17)
  | .bc6hReserved1B _ => (0x1F, 0x1B)
  | .bc6hReserved1F _ => (0x1F, 0x1F)
  | .bc7Mode0 _ => (0x01, 0x01)
  | .bc7Mode1 _ => (0x03, 0x02)
  | .bc7Mode2 _ => (0x07, 0x04)
  | .bc7Mode3 _ => (0x0F, 0x08)
  | .bc7Mode4 _ => (0x1F, 0x10)
  | .bc7Mode5 _ => (0x3F, 0x20)
  | .bc7Mode6 _ => (0x7F, 0x40)
  | .bc7Mode7 _ => (0xFF, 0x80)
  | .bc7Reserved _ => (0xFF, 0x00)

/-- The encoding of `i`, under the mask of its row, is the row's match. -/
def Statement (i : Instr) : Prop := bitsOf (encode i) &&& (tableRow i).1 = (tableRow i).2

/-! ## Commands -/

/-- Bit `j` of a placed field. -/
theorem place_getLsbD {n : Nat} (x : BitVec n) (lo j : Nat) (hj : j < 32) :
    (place x lo).getLsbD j = (decide (lo ≤ j) && x.getLsbD (j - lo)) := by
  simp only [place, BitVec.getLsbD_shiftLeft, BitVec.getLsbD_setWidth, hj, decide_true, Bool.true_and]
  by_cases h : lo ≤ j
  · have : j - lo < 32 := by omega
    simp [h, this, Nat.not_lt.2 h]
  · simp [h, Nat.lt_of_not_le h]

/-- A command word is its opcode and its fields; under a mask that no field reaches it is the opcode. -/
theorem masked_eq (w m k : Word) (h : ∀ j : Fin 32, m.getLsbD j = true → w.getLsbD j = k.getLsbD j)
    (hk : ∀ j : Fin 32, m.getLsbD j = false → k.getLsbD j = false) : w.toNat &&& m.toNat = k.toNat := by
  rw [← BitVec.toNat_and]
  congr 1
  apply BitVec.eq_of_getLsbD_eq
  intro j hj
  rw [BitVec.getLsbD_and]
  have h1 := h ⟨j, hj⟩
  have h2 := hk ⟨j, hj⟩
  simp only [] at h1 h2
  cases hm : m.getLsbD j
  · simp [h2 hm]
  · simp [h1 hm]

/-- A mask bit lies outside the field of `n` bits placed at `lo`, so the field has no bit there. -/
theorem outside {n : Nat} (x : BitVec n) (lo : Nat) (m : Word) (j : Fin 32)
    (h : ∀ j : Fin 32, m.getLsbD j = true → j.val < lo ∨ lo + n ≤ j.val) (hm : m.getLsbD j = true) :
    (decide (lo ≤ j.val) && x.getLsbD (j.val - lo)) = false := by
  rcases h j hm with h1 | h1
  · simp [Nat.not_le.2 h1]
  · rw [BitVec.getLsbD_of_ge x _ (by omega), Bool.and_false]

theorem nop : Statement .nop := rfl

theorem rdbit (off : BitVec 7) : Statement (.rdbit off) := by
  refine masked_eq (0x1#32 ||| place off 4) 0xFFFFF80F#32 0x1#32 ?_ (by decide)
  intro j hm
  simp only [BitVec.getLsbD_or, place_getLsbD _ _ _ j.isLt]
  have h4 : (decide (4 ≤ j.val) && off.getLsbD (j.val - 4)) = false := by
    exact outside off 4 0xFFFFF80F#32 j (by decide) hm
  simp [h4]

theorem rdbits (off len : BitVec 7) : Statement (.rdbits off len) := by
  refine masked_eq (0x2#32 ||| place off 4 ||| place len 11) 0xFFFC000F#32 0x2#32 ?_ (by decide)
  intro j hm
  simp only [BitVec.getLsbD_or, place_getLsbD _ _ _ j.isLt]
  have h4 : (decide (4 ≤ j.val) && off.getLsbD (j.val - 4)) = false := by
    exact outside off 4 0xFFFC000F#32 j (by decide) hm
  have h11 : (decide (11 ≤ j.val) && len.getLsbD (j.val - 11)) = false := by
    exact outside len 11 0xFFFC000F#32 j (by decide) hm
  simp [h4, h11]

theorem decbc6u : Statement .decbc6u := rfl

theorem decbc6s : Statement .decbc6s := rfl

theorem decbc7 : Statement .decbc7 := rfl

theorem modeq (codec : Codec) : Statement (.modeq codec) := by cases codec <;> rfl

theorem partq (ns : BitVec 2) (p : BitVec 6) (i : BitVec 4) : Statement (.partq ns p i) := by
  refine masked_eq (0x7#32 ||| place ns 4 ||| place p 6 ||| place i 12) 0xFFFF000F#32 0x7#32 ?_ (by decide)
  intro j hm
  simp only [BitVec.getLsbD_or, place_getLsbD _ _ _ j.isLt]
  have h4 : (decide (4 ≤ j.val) && ns.getLsbD (j.val - 4)) = false := by
    exact outside ns 4 0xFFFF000F#32 j (by decide) hm
  have h6 : (decide (6 ≤ j.val) && p.getLsbD (j.val - 6)) = false := by
    exact outside p 6 0xFFFF000F#32 j (by decide) hm
  have h12 : (decide (12 ≤ j.val) && i.getLsbD (j.val - 12)) = false := by
    exact outside i 12 0xFFFF000F#32 j (by decide) hm
  simp [h4, h6, h12]

theorem interp (idx : BitVec 4) (prec : BitVec 3) : Statement (.interp idx prec) := by
  refine masked_eq (0x8#32 ||| place idx 4 ||| place prec 8) 0xFFFFF80F#32 0x8#32 ?_ (by decide)
  intro j hm
  simp only [BitVec.getLsbD_or, place_getLsbD _ _ _ j.isLt]
  have h4 : (decide (4 ≤ j.val) && idx.getLsbD (j.val - 4)) = false := by
    exact outside idx 4 0xFFFFF80F#32 j (by decide) hm
  have h8 : (decide (8 ≤ j.val) && prec.getLsbD (j.val - 8)) = false := by
    exact outside prec 8 0xFFFFF80F#32 j (by decide) hm
  simp [h4, h8]

theorem unq6 (n : BitVec 5) (sg : Bool) : Statement (.unq6 n sg) := by
  refine masked_eq (0x9#32 ||| place n 4 ||| place (flagBit sg) 9) 0xFFFFFC0F#32 0x9#32 ?_ (by decide)
  intro j hm
  simp only [BitVec.getLsbD_or, place_getLsbD _ _ _ j.isLt]
  have h4 : (decide (4 ≤ j.val) && n.getLsbD (j.val - 4)) = false := by
    exact outside n 4 0xFFFFFC0F#32 j (by decide) hm
  have h9 : (decide (9 ≤ j.val) && (flagBit sg).getLsbD (j.val - 9)) = false := by
    exact outside (flagBit sg) 9 0xFFFFFC0F#32 j (by decide) hm
  simp [h4, h9]

theorem finish (sg : Bool) : Statement (.finish sg) := by cases sg <;> rfl

theorem expand7 (n : BitVec 4) (v : BitVec 8) : Statement (.expand7 n v) := by
  refine masked_eq (0xB#32 ||| place n 4 ||| place v 8) 0xFFFF000F#32 0xB#32 ?_ (by decide)
  intro j hm
  simp only [BitVec.getLsbD_or, place_getLsbD _ _ _ j.isLt]
  have h4 : (decide (4 ≤ j.val) && n.getLsbD (j.val - 4)) = false := by
    exact outside n 4 0xFFFF000F#32 j (by decide) hm
  have h8 : (decide (8 ≤ j.val) && v.getLsbD (j.val - 8)) = false := by
    exact outside v 8 0xFFFF000F#32 j (by decide) hm
  simp [h4, h8]

theorem reservedC (rest : BitVec 28) : Statement (.reservedC rest) := by
  refine masked_eq (0xC#32 ||| place rest 4) 0xF#32 0xC#32 ?_ (by decide)
  intro j hm
  simp only [BitVec.getLsbD_or, place_getLsbD _ _ _ j.isLt]
  have h4 : (decide (4 ≤ j.val) && rest.getLsbD (j.val - 4)) = false := by
    exact outside rest 4 0xF#32 j (by decide) hm
  simp [h4]

theorem reservedD (rest : BitVec 28) : Statement (.reservedD rest) := by
  refine masked_eq (0xD#32 ||| place rest 4) 0xF#32 0xD#32 ?_ (by decide)
  intro j hm
  simp only [BitVec.getLsbD_or, place_getLsbD _ _ _ j.isLt]
  have h4 : (decide (4 ≤ j.val) && rest.getLsbD (j.val - 4)) = false := by
    exact outside rest 4 0xF#32 j (by decide) hm
  simp [h4]

theorem reservedE (rest : BitVec 28) : Statement (.reservedE rest) := by
  refine masked_eq (0xE#32 ||| place rest 4) 0xF#32 0xE#32 ?_ (by decide)
  intro j hm
  simp only [BitVec.getLsbD_or, place_getLsbD _ _ _ j.isLt]
  have h4 : (decide (4 ≤ j.val) && rest.getLsbD (j.val - 4)) = false := by
    exact outside rest 4 0xF#32 j (by decide) hm
  simp [h4]

theorem reservedF (rest : BitVec 28) : Statement (.reservedF rest) := by
  refine masked_eq (0xF#32 ||| place rest 4) 0xF#32 0xF#32 ?_ (by decide)
  intro j hm
  simp only [BitVec.getLsbD_or, place_getLsbD _ _ _ j.isLt]
  have h4 : (decide (4 ≤ j.val) && rest.getLsbD (j.val - 4)) = false := by
    exact outside rest 4 0xF#32 j (by decide) hm
  simp [h4]

/-! ## Blocks -/

/-- Rows that lie above the selector leave its bits alone. -/
theorem selector_bits {F : Type} (val : F → Nat) (rows : List (LayoutRow F)) (sel hdr : Nat)
    (hin : ∀ r ∈ rows, hdr ≤ r.lo) (hs : sel < 2 ^ hdr) (hh : hdr ≤ 128) :
    (BitVec.ofNat 128 (sel ||| scatter val rows)).toNat &&& (2 ^ hdr - 1) = sel := by
  apply Nat.eq_of_testBit_eq
  intro j
  rw [Nat.testBit_and, Nat.testBit_two_pow_sub_one, BitVec.toNat_ofNat, Nat.testBit_mod_two_pow,
    Nat.testBit_or]
  by_cases hj : j < hdr
  · have h0 : (scatter val rows).testBit j = false := by
      rw [Bool.eq_false_iff]
      intro hc
      obtain ⟨r, hr, ht, _⟩ := (scatter_testBit val rows j).1 hc
      have := hin r hr
      simp only [LayoutRow.takesBit, Bool.and_eq_true, decide_eq_true_eq] at ht
      omega
    have h1 : j < 128 := by omega
    simp [hj, h0, h1]
  · have : sel.testBit j = false :=
      Nat.testBit_lt_two_pow (Nat.lt_of_lt_of_le hs (Nat.pow_le_pow_right (by omega) (by omega)))
    simp [hj, this]

theorem bc6h_bits (m : Bc6hMode) (f : Bc6hFields) :
    (encodeBc6h m f).toNat &&& (2 ^ (bc6hDesc m).hdr - 1) = bc6hModeId m :=
  selector_bits _ _ _ _ (by cases m <;> decide) (by cases m <;> decide) (by cases m <;> decide)

theorem bc7_bits (m : Bc7Mode) (f : Bc7Fields) :
    (encodeBc7 m f).toNat &&& (2 ^ (bc7Desc m).hdr - 1) = 2 ^ bc7ModeId m :=
  selector_bits _ _ _ _ (by cases m <;> decide) (by cases m <;> decide) (by cases m <;> decide)

/-- The low bits of a concatenation. -/
theorem append_bits {n k : Nat} (x : BitVec n) (y : BitVec k) :
    (x ++ y).toNat &&& (2 ^ k - 1) = y.toNat := by
  apply Nat.eq_of_testBit_eq
  intro j
  rw [Nat.testBit_and, Nat.testBit_two_pow_sub_one, BitVec.testBit_toNat, BitVec.testBit_toNat, BitVec.getLsbD_append]
  by_cases hj : j < k
  · simp [hj]
  · simp [hj, BitVec.getLsbD_of_ge y j (by omega)]

theorem bc6hMode00 (f : Bc6hFields) : Statement (.bc6hMode00 f) := bc6h_bits .m00 f

theorem bc6hMode01 (f : Bc6hFields) : Statement (.bc6hMode01 f) := bc6h_bits .m01 f

theorem bc6hMode02 (f : Bc6hFields) : Statement (.bc6hMode02 f) := bc6h_bits .m02 f

theorem bc6hMode06 (f : Bc6hFields) : Statement (.bc6hMode06 f) := bc6h_bits .m06 f

theorem bc6hMode0A (f : Bc6hFields) : Statement (.bc6hMode0A f) := bc6h_bits .m0A f

theorem bc6hMode0E (f : Bc6hFields) : Statement (.bc6hMode0E f) := bc6h_bits .m0E f

theorem bc6hMode12 (f : Bc6hFields) : Statement (.bc6hMode12 f) := bc6h_bits .m12 f

theorem bc6hMode16 (f : Bc6hFields) : Statement (.bc6hMode16 f) := bc6h_bits .m16 f

theorem bc6hMode1A (f : Bc6hFields) : Statement (.bc6hMode1A f) := bc6h_bits .m1A f

theorem bc6hMode1E (f : Bc6hFields) : Statement (.bc6hMode1E f) := bc6h_bits .m1E f

theorem bc6hMode03 (f : Bc6hFields) : Statement (.bc6hMode03 f) := bc6h_bits .m03 f

theorem bc6hMode07 (f : Bc6hFields) : Statement (.bc6hMode07 f) := bc6h_bits .m07 f

theorem bc6hMode0B (f : Bc6hFields) : Statement (.bc6hMode0B f) := bc6h_bits .m0B f

theorem bc6hMode0F (f : Bc6hFields) : Statement (.bc6hMode0F f) := bc6h_bits .m0F f

theorem bc6hReserved13 (rest : BitVec 123) : Statement (.bc6hReserved13 rest) :=
  append_bits rest (0x13#5)

theorem bc6hReserved17 (rest : BitVec 123) : Statement (.bc6hReserved17 rest) :=
  append_bits rest (0x17#5)

theorem bc6hReserved1B (rest : BitVec 123) : Statement (.bc6hReserved1B rest) :=
  append_bits rest (0x1B#5)

theorem bc6hReserved1F (rest : BitVec 123) : Statement (.bc6hReserved1F rest) :=
  append_bits rest (0x1F#5)

theorem bc7Mode0 (f : Bc7Fields) : Statement (.bc7Mode0 f) := bc7_bits .m0 f

theorem bc7Mode1 (f : Bc7Fields) : Statement (.bc7Mode1 f) := bc7_bits .m1 f

theorem bc7Mode2 (f : Bc7Fields) : Statement (.bc7Mode2 f) := bc7_bits .m2 f

theorem bc7Mode3 (f : Bc7Fields) : Statement (.bc7Mode3 f) := bc7_bits .m3 f

theorem bc7Mode4 (f : Bc7Fields) : Statement (.bc7Mode4 f) := bc7_bits .m4 f

theorem bc7Mode5 (f : Bc7Fields) : Statement (.bc7Mode5 f) := bc7_bits .m5 f

theorem bc7Mode6 (f : Bc7Fields) : Statement (.bc7Mode6 f) := bc7_bits .m6 f

theorem bc7Mode7 (f : Bc7Fields) : Statement (.bc7Mode7 f) := bc7_bits .m7 f

theorem bc7Reserved (rest : BitVec 120) : Statement (.bc7Reserved rest) := append_bits rest (0#8)

end Sys2Proof.Laws.OpcodeBits
end

