-- ==== Sys2Proof/Tests/Slice0.lean ====
section
/-! SUPPORT. The model's own tests. Expected values are the spec's: its worked examples (by rule), its vectors
(95_test_vectors.md, L1 to L3), or fields read by hand off its encoding tables. Each test is one decode or one
step. The last part shows, for each statement that has hypotheses, states and operands that meet them. -/

namespace Sys2Proof.Tests

open Machine

/-! ## Helpers -/

/-- The next state of an outcome. -/
def nextOf (o : Out) : Option State :=
  match o with
  | .next t => some t
  | .fault _ => none
  | .refused _ => none

/-- The reset state with a block, ARG0 and ARG1. -/
def at' (blk : Block) (arg0 arg1 : Word) : State := { State.reset with blk := blk, arg0 := arg0, arg1 := arg1 }

/-- EXB, the block of the cursor's examples: byte k holds k. -/
def exb : Block := 0x0F0E0D0C0B0A09080706050403020100

/-- A state whose registers all hold something, with a command word `c` in CMD. -/
def busy (c : Word) : State :=
  { State.reset with cmd := c, status := 0x2, arg0 := 7, arg1 := 9, res := 0x123456789, blk := exb
                     outf := tabulate 48 fun k => BitVec.ofNat 32 (k + 1)
                     outb := tabulate 64 fun k => BitVec.ofNat 8 (k + 1) }

/-- RES and STATUS after an instruction. -/
def resOf (i : Instr) (s : State) : Option (BitVec 64 × Word) := (nextOf (exec i s)).map fun t => (t.res, t.status)

/-- CMD and STATUS after one step on a CMD write. -/
def cmdOf (w : Word) (s : State) : Option (Word × Word) :=
  (nextOf (step { s with hostIn := [.write 32 0 w] })).map fun t => (t.cmd, t.status)

/-- Some words of OUTF after an instruction run with opcode `op` in CMD, if INVALID is 0. -/
def outf6 (op : Word) (i : Instr) (ks : List (Fin 48)) : Option (List Word) :=
  (nextOf (exec i { busy op with status := 0 })).bind fun t =>
    if t.status = 0 then some (ks.map fun k => t.outf[k]) else none

/-- The 16 host words of OUTB after an instruction, if INVALID is 0. -/
def outb7 (i : Instr) : Option (List Word) :=
  (nextOf (exec i (busy 5))).bind fun t =>
    if t.status = 0 then some ((List.finRange 16).map fun k => outbWord t k) else none

/-! ## Well-formedness: an ill-formed instruction for each check -/

/-- A BC6H field record of zeros but for the given parts. -/
def f6 (e0 e1 e2 e3 : Bc6hRaw) (d : BitVec 5) (index : BitVec 63) : Bc6hFields := ⟨e0, e1, e2, e3, d, index⟩

/-- A raw BC6H endpoint of zeros. -/
def z6 : Bc6hRaw := ⟨0, 0, 0⟩

theorem test_wf_accepts_bc6h :
    (Instr.bc6hMode00 (f6 ⟨0x3FF, 0x3FF, 0x3FF⟩ ⟨31, 31, 31⟩ ⟨31, 31, 31⟩ ⟨31, 31, 31⟩ 31 0x3FFFFFFFFFFF)).wf = true ∧
    (Instr.bc6hMode0F (f6 ⟨0xFFFF, 0xFFFF, 0xFFFF⟩ ⟨15, 15, 15⟩ z6 z6 0 0x7FFFFFFFFFFFFFFF)).wf = true := by decide

theorem test_wf_refuses_e0 :
    (Instr.bc6hMode00 (f6 ⟨0x400, 0, 0⟩ z6 z6 z6 0 0)).wf = false ∧
    (Instr.bc6hMode00 (f6 ⟨0, 0x400, 0⟩ z6 z6 z6 0 0)).wf = false ∧
    (Instr.bc6hMode00 (f6 ⟨0, 0, 0x400⟩ z6 z6 z6 0 0)).wf = false := by decide

theorem test_wf_refuses_e1 :
    (Instr.bc6hMode02 (f6 z6 ⟨32, 0, 0⟩ z6 z6 0 0)).wf = false ∧
    (Instr.bc6hMode02 (f6 z6 ⟨0, 16, 0⟩ z6 z6 0 0)).wf = false ∧
    (Instr.bc6hMode02 (f6 z6 ⟨0, 0, 16⟩ z6 z6 0 0)).wf = false := by decide

theorem test_wf_refuses_e2_e3 :
    (Instr.bc6hMode0E (f6 z6 z6 ⟨32, 0, 0⟩ z6 0 0)).wf = false ∧
    (Instr.bc6hMode0E (f6 z6 z6 z6 ⟨0, 0, 32⟩ 0 0)).wf = false := by decide

theorem test_wf_refuses_absent_bc6h :
    (Instr.bc6hMode03 (f6 z6 z6 ⟨1, 0, 0⟩ z6 0 0)).wf = false ∧
    (Instr.bc6hMode03 (f6 z6 z6 z6 ⟨1, 0, 0⟩ 0 0)).wf = false ∧
    (Instr.bc6hMode03 (f6 z6 z6 z6 z6 1 0)).wf = false := by decide

theorem test_wf_refuses_index_bc6h :
    (Instr.bc6hMode00 (f6 z6 z6 z6 z6 0 0x400000000000)).wf = false := by decide

/-- A raw BC7 endpoint of zeros. -/
def z7 : Bc7Raw := ⟨0, 0, 0, 0⟩

theorem test_wf_accepts_bc7 :
    (Instr.bc7Mode0 ⟨15, 0, 0, ⟨15, 15, 15, 0⟩, z7, z7, z7, z7, ⟨15, 15, 15, 0⟩, 63, 0x1FFFFFFFFFFF, 0⟩).wf = true ∧
    (Instr.bc7Mode4 ⟨0, 3, 1, ⟨31, 31, 31, 63⟩, z7, z7, z7, z7, z7, 0, 0x7FFFFFFF, 0x7FFFFFFFFFFF⟩).wf = true := by
  decide

theorem test_wf_refuses_head_bc7 :
    (Instr.bc7Mode0 ⟨16, 0, 0, z7, z7, z7, z7, z7, z7, 0, 0, 0⟩).wf = false ∧
    (Instr.bc7Mode0 ⟨0, 1, 0, z7, z7, z7, z7, z7, z7, 0, 0, 0⟩).wf = false ∧
    (Instr.bc7Mode5 ⟨0, 0, 1, z7, z7, z7, z7, z7, z7, 0, 0, 0⟩).wf = false ∧
    (Instr.bc7Mode1 ⟨0, 0, 0, z7, z7, z7, z7, z7, z7, 4, 0, 0⟩).wf = false := by decide

theorem test_wf_refuses_endpoint_bc7 :
    (Instr.bc7Mode0 ⟨0, 0, 0, ⟨16, 0, 0, 0⟩, z7, z7, z7, z7, z7, 0, 0, 0⟩).wf = false ∧
    (Instr.bc7Mode0 ⟨0, 0, 0, z7, ⟨0, 16, 0, 0⟩, z7, z7, z7, z7, 0, 0, 0⟩).wf = false ∧
    (Instr.bc7Mode0 ⟨0, 0, 0, z7, z7, ⟨0, 0, 16, 0⟩, z7, z7, z7, 0, 0, 0⟩).wf = false ∧
    (Instr.bc7Mode0 ⟨0, 0, 0, z7, z7, z7, ⟨0, 0, 0, 1⟩, z7, z7, 0, 0, 0⟩).wf = false ∧
    (Instr.bc7Mode0 ⟨0, 0, 0, z7, z7, z7, z7, ⟨16, 0, 0, 0⟩, z7, 0, 0, 0⟩).wf = false ∧
    (Instr.bc7Mode0 ⟨0, 0, 0, z7, z7, z7, z7, z7, ⟨16, 0, 0, 0⟩, 0, 0, 0⟩).wf = false := by decide

theorem test_wf_refuses_absent_bc7 :
    (Instr.bc7Mode6 ⟨0, 0, 0, z7, z7, ⟨1, 0, 0, 0⟩, z7, z7, z7, 0, 0, 0⟩).wf = false ∧
    (Instr.bc7Mode1 ⟨0, 0, 0, z7, z7, z7, z7, z7, ⟨1, 0, 0, 0⟩, 0, 0, 0⟩).wf = false := by decide

theorem test_wf_refuses_index_bc7 :
    (Instr.bc7Mode3 ⟨0, 0, 0, z7, z7, z7, z7, z7, z7, 0, 0x40000000, 0⟩).wf = false ∧
    (Instr.bc7Mode3 ⟨0, 0, 0, z7, z7, z7, z7, z7, z7, 0, 0, 1⟩).wf = false := by decide

/-! ## Decoding: a word or block of every instruction, written out from the spec's encoding -/

/-! ### Commands (R71, R72): the opcode in bits 3:0, then each field at its bit -/

theorem test_decode_nop : decodeCommand 0b0000 = .ok .nop := by decide

theorem test_decode_rdbit : decodeCommand 0b1000001_0001 = .ok (.rdbit 0b1000001) := by decide

theorem test_decode_rdbits : decodeCommand 0b1000000_0000011_0010 = .ok (.rdbits 0b0000011 0b1000000) := by decide

theorem test_decode_decbc6u : decodeCommand 0b0011 = .ok .decbc6u := by decide

theorem test_decode_decbc6s : decodeCommand 0b0100 = .ok .decbc6s := by decide

theorem test_decode_decbc7 : decodeCommand 0b0101 = .ok .decbc7 := by decide

theorem test_decode_modeq :
    decodeCommand 0b0_0110 = .ok (.modeq .bc6h) ∧ decodeCommand 0b1_0110 = .ok (.modeq .bc7) := by decide

theorem test_decode_partq : decodeCommand 0b1110_100001_01_0111 = .ok (.partq 0b01 0b100001 0b1110) := by decide

theorem test_decode_interp : decodeCommand 0b100_1101_1000 = .ok (.interp 0b1101 0b100) := by decide

theorem test_decode_unq6 :
    decodeCommand 0b1_01010_1001 = .ok (.unq6 0b01010 true) ∧
    decodeCommand 0b0_10000_1001 = .ok (.unq6 0b10000 false) := by decide

theorem test_decode_finish :
    decodeCommand 0b0_1010 = .ok (.finish false) ∧ decodeCommand 0b1_1010 = .ok (.finish true) := by decide

theorem test_decode_expand7 : decodeCommand 0b11001000_1000_1011 = .ok (.expand7 0b1000 0b11001000) := by decide

theorem test_decode_reservedC : decodeCommand 0xC = .ok (.reservedC 0) := by decide

theorem test_decode_reservedD : decodeCommand 0x8000000D = .ok (.reservedD 0x8000000) := by decide

theorem test_decode_reservedE : decodeCommand 0x0000001E = .ok (.reservedE 1) := by decide

theorem test_decode_reservedF : decodeCommand 0xFFFFFFFF = .ok (.reservedF 0xFFFFFFF) := by decide

/-- R74: one reserved bit of each format, RDBIT's LEN among them. -/
theorem test_decode_rejects_reserved_bits :
    ∀ w ∈ [0x10, 0x811, 0x40002, 0x80000002, 0x13, 0x14, 0x15, 0x26, 0x10007, 0x808, 0x409, 0x2A, 0x1000B],
      decodeCommand (BitVec.ofNat 32 w) = .error .reservedField := by decide


/-! ### BC6H: the blocks of L2.5, their fields read off the tables of R84 to R97 -/

theorem test_decode_bc6hMode00 : decodeBc6hBlock 0xCBB22D7706A2261D9AFE35DD9D2E08EC = .bc6hMode00
    ⟨⟨0x47, 0x25C, 0x2CE⟩, ⟨0x1B, 0x11, 0x15⟩, ⟨0xE, 0x1A, 0x1C⟩, ⟨0xC, 0x1F, 0x3⟩, 17, 0x32EC8B5DC1A8⟩ := by decide

theorem test_decode_bc6hMode01 : decodeBc6hBlock 0x7FAE7BE9622A737776FF7404C99F9695 = .bc6hMode01
    ⟨⟨0x34, 0x3F, 0x64⟩, ⟨0x0, 0x3B, 0x2D⟩, ⟨0x3B, 0x3A, 0xB⟩, ⟨0x26, 0x2F, 0x15⟩, 19, 0x1FEB9EFA588A⟩ := by decide

theorem test_decode_bc6hMode02 : decodeBc6hBlock 0x26EF7831D40A49FBACD3BB82B907B6A2 = .bc6hMode02
    ⟨⟨0x5B5, 0x60F, 0x55C⟩, ⟨0x10, 0xD, 0x9⟩, ⟨0x1D, 0xD, 0xD⟩, ⟨0x13, 0xA, 0x4⟩, 18, 0x9BBDE0C7502⟩ := by decide

theorem test_decode_bc6hMode06 : decodeBc6hBlock 0x192C9C895FBEA84A56DD7A79E86D0146 = .bc6hMode06
    ⟨⟨0xA, 0x4DA, 0xF4⟩, ⟨0xF, 0xB, 0xD⟩, ⟨0x5, 0x1D, 0x2⟩, ⟨0x0, 0xB, 0x6⟩, 21, 0x64B272257EF⟩ := by decide

theorem test_decode_bc6hMode0A : decodeBc6hBlock 0x53DC15405264747F31F7A281120C6B2A = .bc6hMode0A
    ⟨⟨0x759, 0x418, 0x489⟩, ⟨0x0, 0xD, 0x3⟩, ⟨0xF, 0x1, 0x9⟩, ⟨0x8, 0xE, 0xF⟩, 3, 0x14F705501499⟩ := by decide

theorem test_decode_bc6hMode0E : decodeBc6hBlock 0x2EDE87D90229E69EE44F6D1D8116B7EE = .bc6hMode0E
    ⟨⟨0x1BF, 0x2D, 0xC0⟩, ⟨0x3, 0x1B, 0x8⟩, ⟨0xF, 0x16, 0x7⟩, ⟨0xD, 0x19, 0x11⟩, 15, 0xBB7A1F6408A⟩ := by decide

theorem test_decode_bc6hMode12 : decodeBc6hBlock 0x96B0C8735E0AB8C1F688F2A51E0D7812 = .bc6hMode12
    ⟨⟨0xC0, 0x1A, 0x8F⟩, ⟨0x14, 0x7, 0xD⟩, ⟨0x20, 0x9, 0x1F⟩, ⟨0x31, 0x11, 0x12⟩, 21, 0x25AC321CD782⟩ := by decide

theorem test_decode_bc6hMode16 : decodeBc6hBlock 0x08C015FCB470305E398B8EF7155E1736 = .bc6hMode16
    ⟨⟨0xB9, 0xBC, 0x8A⟩, ⟨0x1E, 0x1C, 0x13⟩, ⟨0xF, 0x17, 0x1⟩, ⟨0x0, 0x21, 0x1E⟩, 1, 0x230057F2D1C⟩ := by decide

theorem test_decode_bc6hMode1A : decodeBc6hBlock 0xA1D4CDBC222CFFE9C6E5ADF36BBAEDDA = .bc6hMode1A
    ⟨⟨0x6E, 0x75, 0xB5⟩, ⟨0x1E, 0xD, 0xD⟩, ⟨0x14, 0x16, 0x3E⟩, ⟨0x1F, 0x1C, 0x2F⟩, 7, 0x2875336F088B⟩ := by decide

theorem test_decode_bc6hMode1E : decodeBc6hBlock 0x2A0F7CD400043D3742DC41BA4C75E39E = .bc6hMode1E
    ⟨⟨0x1C, 0x2B, 0x26⟩, ⟨0x37, 0x22, 0x5⟩, ⟨0x1B, 0x20, 0x3A⟩, ⟨0x3A, 0xB, 0x22⟩, 1, 0xA83DF350001⟩ := by decide

theorem test_decode_bc6hMode03 : decodeBc6hBlock 0xB9A529A9B2391753BE60C998B6599F63 = .bc6hMode03
    ⟨⟨0xFB, 0xB3, 0x5B⟩, ⟨0x133, 0x306, 0x37C⟩, ⟨0x0, 0x0, 0x0⟩, ⟨0x0, 0x0, 0x0⟩, 0, 0x5CD294D4D91C8BA9⟩ := by decide

theorem test_decode_bc6hMode07 : decodeBc6hBlock 0xF314113BC1ED899B04EA773150435707 = .bc6hMode07
    ⟨⟨0x6B8, 0x486, 0x4A8⟩, ⟨0xE6, 0x153, 0x9⟩, ⟨0x0, 0x0, 0x0⟩, ⟨0x0, 0x0, 0x0⟩, 0, 0x798A089DE0F6C4CD⟩ := by decide

theorem test_decode_bc6hMode0B : decodeBc6hBlock 0xA20D1C503B46A5858AE2569E9318934B = .bc6hMode0B
    ⟨⟨0x49A, 0xE31, 0xF49⟩, ⟨0xD3, 0x12, 0x15⟩, ⟨0x0, 0x0, 0x0⟩, ⟨0x0, 0x0, 0x0⟩, 0, 0x51068E281DA352C2⟩ := by decide

theorem test_decode_bc6hMode0F : decodeBc6hBlock 0x34A7D3296F01A14FC84F8DAA49EE83CF = .bc6hMode0F
    ⟨⟨0xD81E, 0xE7DD, 0x9D24⟩, ⟨0x5, 0xC, 0x0⟩, ⟨0x0, 0x0, 0x0⟩, ⟨0x0, 0x0, 0x0⟩, 0, 0x1A53E994B780D0A7⟩ := by decide

theorem test_decode_bc6hReserved13 : decodeBc6hBlock 0xA5000000000000000000000000000013 =
    .bc6hReserved13 0x5280000000000000000000000000000 := by decide

theorem test_decode_bc6hReserved17 : decodeBc6hBlock 0xA5000000000000000000000000000017 =
    .bc6hReserved17 0x5280000000000000000000000000000 := by decide

theorem test_decode_bc6hReserved1B : decodeBc6hBlock 0xA500000000000000000000000000001B =
    .bc6hReserved1B 0x5280000000000000000000000000000 := by decide

theorem test_decode_bc6hReserved1F : decodeBc6hBlock 0xA500000000000000000000000000001F =
    .bc6hReserved1F 0x5280000000000000000000000000000 := by decide

/-! ### BC7: the blocks of L2.6, their fields read off the table of R103 -/

theorem test_decode_bc7Mode0 : decodeBc7Block 0x5EFB040C28D656F5B3FA9B135F14EE33 = .bc7Mode0
    ⟨9, 0, 0, ⟨0x1, 0xA, 0xF, 0x0⟩, ⟨0x7, 0x9, 0x9, 0x0⟩, ⟨0x7, 0x8, 0xD, 0x0⟩, ⟨0xA, 0xD, 0xA, 0x0⟩, ⟨0x8,
    0x4, 0x7, 0x0⟩, ⟨0xF, 0xD, 0xB, 0x0⟩, 0x32, 0xBDF6081851A, 0x0⟩ := by decide

theorem test_decode_bc7Mode1 : decodeBc7Block 0xAA751AC5E0257144C9B5B83301345766 = .bc7Mode1
    ⟨25, 0, 0, ⟨0x17, 0x33, 0x9, 0x0⟩, ⟨0x11, 0x20, 0x13, 0x0⟩, ⟨0x13, 0x1B, 0x14, 0x0⟩, ⟨0x0, 0x2D, 0x1C,
    0x0⟩, ⟨0x0, 0x0, 0x0, 0x0⟩, ⟨0x0, 0x0, 0x0, 0x0⟩, 0x1, 0x2A9D46B17809, 0x0⟩ := by decide

theorem test_decode_bc7Mode2 : decodeBc7Block 0x8CE44039BF075C795FA16C70BCF8AA2C = .bc7Mode2
    ⟨5, 0, 0, ⟨0x15, 0x18, 0x3, 0x0⟩, ⟨0x2, 0x16, 0x17, 0x0⟩, ⟨0x1F, 0x10, 0xE, 0x0⟩, ⟨0x1C, 0x1E, 0x10,
    0x0⟩, ⟨0x5, 0xB, 0x1F, 0x0⟩, ⟨0x1C, 0x19, 0x6, 0x0⟩, 0x0, 0x119C8807, 0x0⟩ := by decide

theorem test_decode_bc7Mode3 : decodeBc7Block 0xDA5995CEB18D9A986D3ADC51C8F6E778 = .bc7Mode3
    ⟨55, 0, 0, ⟨0x39, 0x71, 0x26, 0x0⟩, ⟨0x7B, 0x56, 0x4D, 0x0⟩, ⟨0x48, 0x53, 0xD, 0x0⟩, ⟨0x23, 0xD, 0x63,
    0x0⟩, ⟨0x0, 0x0, 0x0, 0x0⟩, ⟨0x0, 0x0, 0x0, 0x0⟩, 0xA, 0x36966573, 0x0⟩ := by decide

theorem test_decode_bc7Mode4 : decodeBc7Block 0x8289B63A690E986B434FEDFA05101030 = .bc7Mode4
    ⟨0, 1, 0, ⟨0x10, 0x4, 0x0, 0x37⟩, ⟨0x0, 0xA, 0x1D, 0x3E⟩, ⟨0x0, 0x0, 0x0, 0x0⟩, ⟨0x0, 0x0, 0x0, 0x0⟩,
    ⟨0x0, 0x0, 0x0, 0x0⟩, ⟨0x0, 0x0, 0x0, 0x0⟩, 0x0, 0x261AD0D3, 0x4144DB1D3487⟩ := by decide

theorem test_decode_bc7Mode5 : decodeBc7Block 0xE59C4D1071A6F66CBA460D2E5A4E39A0 = .bc7Mode5
    ⟨0, 2, 0, ⟨0x39, 0x69, 0x52, 0x91⟩, ⟨0x1C, 0x72, 0x41, 0x2E⟩, ⟨0x0, 0x0, 0x0, 0x0⟩, ⟨0x0, 0x0, 0x0,
    0x0⟩, ⟨0x0, 0x0, 0x0, 0x0⟩, ⟨0x0, 0x0, 0x0, 0x0⟩, 0x0, 0x1C69BD9B, 0x72CE2688⟩ := by decide

theorem test_decode_bc7Mode6 : decodeBc7Block 0x2667BBF53B2E950E390F9D47F4C1F340 = .bc7Mode6
    ⟨0, 0, 0, ⟨0x66, 0x26, 0x28, 0x7⟩, ⟨0x7, 0x7F, 0x67, 0x39⟩, ⟨0x0, 0x0, 0x0, 0x0⟩, ⟨0x0, 0x0, 0x0, 0x0⟩,
    ⟨0x0, 0x0, 0x0, 0x0⟩, ⟨0x0, 0x0, 0x0, 0x0⟩, 0x0, 0x1333DDFA9D974A87, 0x0⟩ := by decide

theorem test_decode_bc7Mode7 : decodeBc7Block 0x4ABA76C568958E2995EAC5A6A58A7C80 = .bc7Mode7
    ⟨60, 0, 0, ⟨0x9, 0x9, 0x17, 0x3⟩, ⟨0x11, 0xB, 0x12, 0xB⟩, ⟨0x5, 0xC, 0x9, 0x9⟩, ⟨0x15, 0x15, 0x11,
    0x14⟩, ⟨0x0, 0x0, 0x0, 0x0⟩, ⟨0x0, 0x0, 0x0, 0x0⟩, 0x5, 0x12AE9DB1, 0x0⟩ := by decide

theorem test_decode_bc7Reserved : decodeBc7Block 0xA5000000000000000000000000000000 = .bc7Reserved 0xA50000000000000000000000000000 := by decide

/-! ### The opcode table's words (assumption 4) -/

theorem test_tableWord :
    decodeTableWord 32 0x2 = some (.rdbits 0 0) ∧ decodeTableWord 8 0xC = some (.reservedC 0) ∧
    decodeTableWord 8 0x02 = some (.bc6hMode02 (f6 z6 z6 z6 z6 0 0)) ∧
    decodeTableWord 8 0x80 = some (.bc7Mode7 ⟨0, 0, 0, z7, z7, z7, z7, z7, z7, 0, 0, 0⟩) := by decide

theorem test_withFetchWord :
    (nextOf (step (State.reset.withFetchWord 32 0x1A))).map (fun t => (t.cmd, t.res)) = some (0x1A, 0) ∧
    (nextOf (step (State.reset.withFetchWord 8 0x13))).map (fun t => (t.cmd, t.status)) = some (3, 2) ∧
    (nextOf (step (State.reset.withFetchWord 8 0x80))).map (fun t => (t.cmd, t.status)) = some (5, 0) := by decide

/-! ## Meanings: one step each, expected values from the spec -/

/-- R318: `nop` changes only CMD. -/
theorem test_nop : nextOf (step { busy 5 with hostIn := [.write 32 0 0] }) = some (busy 0) := by decide

/-- R122. -/
theorem test_rdbit : resOf (.rdbit 8) (at' exb 0 0) = some (1, 0) ∧ resOf (.rdbit 127) (at' exb 0 0) = some (0, 0) := by
  decide

/-- R320: RDBIT with LEN = 1. -/
theorem test_rdbit_len : cmdOf 0x811 (at' exb 0 0) = some (0x811, 0x21) := by decide

/-- R124, L2.1. -/
theorem test_rdbits :
    resOf (.rdbits 60 8) (at' exb 0 0) = some (0x80, 0) ∧
    resOf (.rdbits 1 63) (at' exb 0 0) = some (0x383028201810080, 0) ∧
    resOf (.rdbits 64 64) (at' exb 0 0) = some (0x0F0E0D0C0B0A0908, 0) := by decide

/-- L2.1: the range faults leave RES. -/
theorem test_rdbits_range :
    resOf (.rdbits 0 0) (busy 0) = some (0x123456789, 0x33) ∧
    resOf (.rdbits 65 64) (at' exb 0 0) = some (0, 0x31) ∧ resOf (.rdbits 0 65) (at' exb 0 0) = some (0, 0x31) := by
  decide

/-- R284: the mode-0x0B block of R183, unsigned. -/
theorem test_decbc6u :
    (nextOf (exec .decbc6u (at' 0xC0002FF80091D78B 0 0))).map (fun t => (t.outf[0], t.outf[1], t.outf[47], t.status)) =
      some (0x42668000, 0x391A6000, 0x3FC06000, 0) := by decide

/-- R284: the same block, signed. -/
theorem test_decbc6s :
    (nextOf (exec .decbc6s (at' 0xC0002FF80091D78B 0 0))).map (fun t => (t.outf[0], t.outf[1], t.outf[47], t.status)) =
      some (0xC234A000, 0x3A34C000, 0xC77FE000, 0) := by decide

/-- R210, example 2: the anchor's index is one bit shorter. -/
theorem test_decbc7 :
    (nextOf (exec .decbc7 (at' 0xFFFFFFFFFFFFFFFE90FFFC03F8003FC0 0 0))).map
      (fun t => (outbWord t 0, outbWord t 1, t.status)) = some (0x96788087, 0x20FE7E00, 0) := by decide

/-- R291: mode 4 with rotation 1. -/
theorem test_decbc7_rotation :
    (nextOf (exec .decbc7 (at' 0x0001FFFFFFFC0FFE4FA3F030 0 0))).map (fun t => (outbWord t 0, outbWord t 15)) =
      some (0xAC6A80FF, 0xFFFFFFFF) := by decide

/-- R155, L2.2. -/
theorem test_modeq_bc6h :
    resOf (.modeq .bc6h) (at' 0 0 0) = some (0x010035552A252100, 0) ∧
    resOf (.modeq .bc6h) (at' 0x0F 0 0) = some (0x0E0044443010510F, 0) ∧
    resOf (.modeq .bc6h) (at' 0x1B 0 0) = some (0x501B, 0) := by decide

/-- R155, L2.2, and the mode-4 block of L2.6, with ROT = 1 and ISB = 0. -/
theorem test_modeq_bc7 :
    resOf (.modeq .bc7) (at' 0x10 0 0) = some (0x0000032465905104, 0) ∧
    resOf (.modeq .bc7) (at' 0x8289B63A690E986B434FEDFA05101030 0 0) = some (0x0100032465905104, 0) ∧
    resOf (.modeq .bc7) (at' 0 0 0) = some (0x8008, 0) := by decide

/-- R156, L2.3. -/
theorem test_partq :
    resOf (.partq 2 13 15) (at' 0 0 0) = some (0x10F01, 0) ∧ resOf (.partq 3 0 3) (at' 0 0 0) = some (0x1F301, 0) ∧
    resOf (.partq 1 0 15) (at' 0 0 0) = some (0, 0) ∧ resOf (.partq 3 63 4) (at' 0 0 0) = some (0x8302, 0) := by decide

/-- R156: NS = 0, and NS = 1 with P ≠ 0. -/
theorem test_partq_domain :
    resOf (.partq 0 0 0) (at' 0 0 0) = some (0, 0x41) ∧ resOf (.partq 1 1 0) (at' 0 0 0) = some (0, 0x41) := by decide

/-- R234: the floor shift, and the worked example. -/
theorem test_interp :
    resOf (.interp 1 2) (at' 0 (-100) 100) = some (-34, 0) ∧ resOf (.interp 1 2) (at' 0 (-1) 0) = some (-1, 0) ∧
    resOf (.interp 1 2) (at' 0 0 255) = some (84, 0) ∧ resOf (.interp 7 3) (at' 0 0 255) = some (255, 0) := by decide

/-- R234, R320: PREC = 1, and an index of its precision's size. -/
theorem test_interp_domain :
    resOf (.interp 0 1) (at' 0 0 0) = some (0, 0x41) ∧ resOf (.interp 4 2) (at' 0 0 0) = some (0, 0x41) ∧
    resOf (.interp 0 5) (at' 0 0 0) = some (0, 0x41) := by decide

/-- R254, R256. -/
theorem test_unq6 :
    resOf (.unq6 10 false) (at' 0 512 0) = some (0x8020, 0) ∧
    resOf (.unq6 10 true) (at' 0 0xFFFFFFFF 0) = some (0xFFFFFFFFFFFFFFA0, 0) ∧
    resOf (.unq6 10 true) (at' 0 (-512) 0) = some (-32767, 0) ∧
    resOf (.unq6 16 true) (at' 0 (-32768) 0) = some (-32768, 0) := by decide

/-- R256: N = 0, and an operand of too many bits. -/
theorem test_unq6_domain :
    resOf (.unq6 0 false) (at' 0 0 0) = some (0, 0x41) ∧ resOf (.unq6 10 false) (at' 0 1024 0) = some (0, 0x41) ∧
    resOf (.unq6 10 true) (at' 0 512 0) = some (0, 0x41) := by decide

/-- R260's table, both values of SF16_NEG_ENCODING. -/
theorem test_finish :
    resOf (.finish false) (at' 0 0x8000 0) = some (0x3FC0000000003E00, 0) ∧
    resOf (.finish true) (at' 0 (-2) 0) = some (0xB380000000008001, 0) ∧
    resOf (.finish true) (at' 0 (-1) 0) = some (0, 0) ∧
    (resOf (.finish true) { at' 0 (-2) 0 with sf16Neg := .twosComplement }).map (fun r => r.1.setWidth 16) =
      some (0xFFFF#16) := by decide

/-- R260: one past each end. -/
theorem test_finish_domain :
    resOf (.finish false) (at' 0 0x10000 0) = some (0, 0x41) ∧ resOf (.finish false) (at' 0 (-1) 0) = some (0, 0x41) ∧
    resOf (.finish true) (at' 0 32768 0) = some (0, 0x41) ∧ resOf (.finish true) (at' 0 (-32769) 0) = some (0, 0x41) := by
  decide

/-- R263, R264. -/
theorem test_expand7 :
    resOf (.expand7 5 16) (at' 0 0 0) = some (132, 0) ∧ resOf (.expand7 4 5) (at' 0 0 0) = some (85, 0) ∧
    resOf (.expand7 8 200) (at' 0 0 0) = some (200, 0) := by decide

/-- R264, R320: N = 3, N = 9, and V = 2^N. -/
theorem test_expand7_domain :
    resOf (.expand7 3 0) (at' 0 0 0) = some (0, 0x41) ∧ resOf (.expand7 9 0) (at' 0 0 0) = some (0, 0x41) ∧
    resOf (.expand7 5 32) (at' 0 0 0) = some (0, 0x41) := by decide

/-- R73, R320. -/
theorem test_reservedC : nextOf (exec (.reservedC 0) (busy 0xC)) = some { busy 0xC with status := 0x13 } := by decide

theorem test_reservedD : nextOf (exec (.reservedD 1) (busy 0xD)) = some { busy 0xD with status := 0x13 } := by decide

theorem test_reservedE : nextOf (exec (.reservedE 2) (busy 0xE)) = some { busy 0xE with status := 0x13 } := by decide

/-- R312: 0xFFFFFFFF raises BAD_OPCODE, not RESERVED_FIELD. -/
theorem test_reservedF : cmdOf 0xFFFFFFFF (busy 0) = some (0xFFFFFFFF, 0x13) := by decide

/-- R283: the zero fill leaves the other buffer and RES. -/
theorem test_bc6hReserved13 : nextOf (exec (.bc6hReserved13 5) { busy 3 with status := 0 }) =
    some { busy 3 with outf := tabulate 48 fun _ => 0 } := by decide

theorem test_bc6hReserved17 : nextOf (exec (.bc6hReserved17 0) { busy 3 with status := 0 }) =
    some { busy 3 with outf := tabulate 48 fun _ => 0 } := by decide

theorem test_bc6hReserved1B : nextOf (exec (.bc6hReserved1B 0) { busy 4 with status := 0 }) =
    some { busy 4 with outf := tabulate 48 fun _ => 0 } := by decide

theorem test_bc6hReserved1F : nextOf (exec (.bc6hReserved1F 1) { busy 4 with status := 0 }) =
    some { busy 4 with outf := tabulate 48 fun _ => 0 } := by decide

theorem test_bc7Reserved : nextOf (exec (.bc7Reserved 1) { busy 5 with status := 0 }) =
    some { busy 5 with outb := tabulate 64 fun _ => 0 } := by decide

/-- R55, R320: a write to STATUS and a read of an unmapped offset. -/
theorem test_badAccess :
    nextOf (step { busy 0 with hostIn := [.write 32 4 0] }) = some { busy 0 with status := 0x53 } ∧
    nextOf (step { busy 0 with hostIn := [.read 32 0x18] }) = some { busy 0 with status := 0x53, readLog := [0] } := by
  decide

/-- R314, R320: a decode written after a fault is ignored, and OUTB[4..7] still reads. -/
theorem test_faulted :
    nextOf (step { busy 0 with status := 0x51, hostIn := [.write 32 0 3] }) = some { busy 0 with status := 0x51 } ∧
    nextOf (step { busy 0 with status := 0x51, hostIn := [.read 32 0x204] }) =
      some { busy 0 with status := 0x51, readLog := [0x08070605] } := by decide

/-- R340: a reset event with a draw of ones. -/
theorem test_reset :
    (nextOf (step { busy 0 with status := 0x51, hostIn := [.reset
      ⟨-1, -1, -1, -1, tabulate 48 fun _ => 1, tabulate 64 fun _ => 1⟩] })).map
        (fun t => (t.cmd, t.status, t.arg0, t.blk, t.outf[47], t.outb[63])) =
      some (0, 0, 0xFFFFFFFF, -1, 1, 1) := by decide

/-- R79: `ldblk` places byte 0 in block bits 7:0, and refuses 15 bytes (93 U19). -/
theorem test_ldblk :
    blockOfBytes [0, 1, 2, 3, 4, 5, 6, 7, 8, 9, 10, 11, 12, 13, 14, 15] = some exb ∧
    blockOfBytes [0, 1, 2, 3, 4, 5, 6, 7, 8, 9, 10, 11, 12, 13, 14] = none := by decide

/-- R78: the text of a line. -/
theorem test_lineText : lineText (.partq 2 13 15) = "partq 2, 13, 15" := by decide

/-! ### BC6H blocks (L2.5): texels 0 and 15 unsigned, texel 0 signed -/

theorem test_bc6hMode00_unsigned : outf6 3 (.bc6hMode00 (bc6hFieldsOf .m00 0xCBB22D7706A2261D9AFE35DD9D2E08EC)) [0, 1, 2, 45, 46, 47] =
    some [0x39150000, 0x41266000, 0x42E02000, 0x39046000, 0x40F46000, 0x42BB8000] := by decide

theorem test_bc6hMode00_signed : outf6 4 (.bc6hMode00 (bc6hFieldsOf .m00 0xCBB22D7706A2261D9AFE35DD9D2E08EC)) [0, 1, 2] =
    some [0x3A2A2000, 0xC4BAE000, 0xC1476000] := by decide

theorem test_bc6hMode01_unsigned : outf6 3 (.bc6hMode01 (bc6hFieldsOf .m01 0x7FAE7BE9622A737776FF7404C99F9695)) [0, 1, 2, 45, 46, 47] =
    some [0x3E5B8000, 0x3F84E000, 0x4385C000, 0x3E5B8000, 0x3F6F0000, 0x43330000] := by decide

theorem test_bc6hMode01_signed : outf6 4 (.bc6hMode01 (bc6hFieldsOf .m01 0x7FAE7BE9622A737776FF7404C99F9695)) [0, 1, 2] =
    some [0x44B70000, 0x471FE000, 0xC0324000] := by decide

theorem test_bc6hMode02_unsigned : outf6 3 (.bc6hMode02 (bc6hFieldsOf .m02 0x26EF7831D40A49FBACD3BB82B907B6A2)) [0, 1, 2, 45, 46, 47] =
    some [0x4306E000, 0x43BC6000, 0x425F6000, 0x430B4000, 0x43BD2000, 0x42614000] := by decide

theorem test_bc6hMode02_signed : outf6 4 (.bc6hMode02 (bc6hFieldsOf .m02 0x26EF7831D40A49FBACD3BB82B907B6A2)) [0, 1, 2] =
    some [0xC0F60000, 0xBF8B0000, 0xC2450000] := by decide

theorem test_bc6hMode06_unsigned : outf6 3 (.bc6hMode06 (bc6hFieldsOf .m06 0x192C9C895FBEA84A56DD7A79E86D0146)) [0, 1, 2, 45, 46, 47] =
    some [0x371C0000, 0x41704000, 0x39D74000, 0x37220000, 0x41674000, 0x39D9A000] := by decide

theorem test_bc6hMode06_signed : outf6 4 (.bc6hMode06 (bc6hFieldsOf .m06 0x192C9C895FBEA84A56DD7A79E86D0146)) [0, 1, 2] =
    some [0x379C0000, 0xC4232000, 0x3BAE8000] := by decide

theorem test_bc6hMode0A_unsigned : outf6 3 (.bc6hMode0A (bc6hFieldsOf .m0A 0x53DC15405264747F31F7A281120C6B2A)) [0, 1, 2, 45, 46, 47] =
    some [0x463D6000, 0x3FEEA000, 0x40CB4000, 0x46398000, 0x3FF08000, 0x40DD6000] := by decide

theorem test_bc6hMode0A_signed : outf6 4 (.bc6hMode0A (bc6hFieldsOf .m0A 0x53DC15405264747F31F7A281120C6B2A)) [0, 1, 2] =
    some [0xBA890000, 0xC7268000, 0xC56D4000] := by decide

theorem test_bc6hMode0E_unsigned : outf6 3 (.bc6hMode0E (bc6hFieldsOf .m0E 0x2EDE87D90229E69EE44F6D1D8116B7EE)) [0, 1, 2, 45, 46, 47] =
    some [0x4592A000, 0x3955A000, 0x3DE54000, 0x46006000, 0x39132000, 0x3E0A2000] := by decide

theorem test_bc6hMode0E_signed : outf6 4 (.bc6hMode0E (bc6hFieldsOf .m0E 0x2EDE87D90229E69EE44F6D1D8116B7EE)) [0, 1, 2] =
    some [0xBBEA2000, 0x3AAB6000, 0x43CAA000] := by decide

theorem test_bc6hMode12_unsigned : outf6 3 (.bc6hMode12 (bc6hFieldsOf .m12 0x96B0C8735E0AB8C1F688F2A51E0D7812)) [0, 1, 2, 45, 46, 47] =
    some [0x43FEE000, 0x39B94000, 0x40E8E000, 0x445AE000, 0x39D96000, 0x4124A000] := by decide

theorem test_bc6hMode12_signed : outf6 4 (.bc6hMode12 (bc6hFieldsOf .m12 0x96B0C8735E0AB8C1F688F2A51E0D7812)) [0, 1, 2] =
    some [0xBF212000, 0x3B728000, 0xC54D2000] := by decide

theorem test_bc6hMode16_unsigned : outf6 3 (.bc6hMode16 (bc6hFieldsOf .m16 0x08C015FCB470305E398B8EF7155E1736)) [0, 1, 2, 45, 46, 47] =
    some [0x433B4000, 0x4369C000, 0x4062C000, 0x4423C000, 0x44CE4000, 0x40724000] := by decide

theorem test_bc6hMode16_signed : outf6 4 (.bc6hMode16 (bc6hFieldsOf .m16 0x08C015FCB470305E398B8EF7155E1736)) [0, 1, 2] =
    some [0xC0A88000, 0xC04B8000, 0xC6598000] := by decide

theorem test_bc6hMode1A_unsigned : outf6 3 (.bc6hMode1A (bc6hFieldsOf .m1A 0xA1D4CDBC222CFFE9C6E5ADF36BBAEDDA)) [0, 1, 2, 45, 46, 47] =
    some [0x3EA3A000, 0x3F724000, 0x43524000, 0x3E26A000, 0x3E9C6000, 0x429CC000] := by decide

theorem test_bc6hMode1A_signed : outf6 4 (.bc6hMode1A (bc6hFieldsOf .m1A 0xA1D4CDBC222CFFE9C6E5ADF36BBAEDDA)) [0, 1, 2] =
    some [0x45474000, 0x39C36000, 0xC07A6000] := by decide

theorem test_bc6hMode1E_unsigned : outf6 3 (.bc6hMode1E (bc6hFieldsOf .m1E 0x2A0F7CD400043D3742DC41BA4C75E39E)) [0, 1, 2, 45, 46, 47] =
    some [0x3FD26000, 0x423A8000, 0x40334000, 0x3EA90000, 0x3FDF0000, 0x462B0000] := by decide

theorem test_bc6hMode1E_signed : outf6 4 (.bc6hMode1E (bc6hFieldsOf .m1E 0x2A0F7CD400043D3742DC41BA4C75E39E)) [0, 1, 2] =
    some [0x43376000, 0xC306E000, 0xC2A80000] := by decide

theorem test_bc6hMode03_unsigned : outf6 3 (.bc6hMode03 (bc6hFieldsOf .m03 0xB9A529A9B2391753BE60C998B6599F63)) [0, 1, 2, 45, 46, 47] =
    some [0x3BDC2000, 0x3B47A000, 0x3A248000, 0x3C6DE000, 0x4154C000, 0x4249E000] := by decide

theorem test_bc6hMode03_signed : outf6 4 (.bc6hMode03 (bc6hFieldsOf .m03 0xB9A529A9B2391753BE60C998B6599F63)) [0, 1, 2] =
    some [0x3FB84000, 0x3C9EC000, 0x3A58A000] := by decide

theorem test_bc6hMode07_unsigned : outf6 3 (.bc6hMode07 (bc6hFieldsOf .m07 0xF314113BC1ED899B04EA773150435707)) [0, 1, 2, 45, 46, 47] =
    some [0x4597A000, 0x4056A000, 0x410C2000, 0x46C30000, 0x3F756000, 0x4117E000] := by decide

theorem test_bc6hMode07_signed : outf6 4 (.bc6hMode07 (bc6hFieldsOf .m07 0xF314113BC1ED899B04EA773150435707)) [0, 1, 2] =
    some [0xBBD46000, 0xBC296000, 0xC4EB6000] := by decide

theorem test_bc6hMode0B_unsigned : outf6 3 (.bc6hMode0B (bc6hFieldsOf .m0B 0xA20D1C503B46A5858AE2569E9318934B)) [0, 1, 2, 45, 46, 47] =
    some [0x3C6F8000, 0x45C26000, 0x46D20000, 0x3C584000, 0x45CBA000, 0x46DCE000] := by decide

theorem test_bc6hMode0B_signed : outf6 4 (.bc6hMode0B (bc6hFieldsOf .m0B 0xA20D1C503B46A5858AE2569E9318934B)) [0, 1, 2] =
    some [0x40DF0000, 0xBB7D0000, 0xB95DC000] := by decide

theorem test_bc6hMode0F_unsigned : outf6 3 (.bc6hMode0F (bc6hFieldsOf .m0F 0x34A7D3296F01A14FC84F8DAA49EE83CF)) [0, 1, 2, 45, 46, 47] =
    some [0x4515E000, 0x4609C000, 0x4183A000, 0x4515E000, 0x4609C000, 0x4183A000] := by decide

theorem test_bc6hMode0F_signed : outf6 4 (.bc6hMode0F (bc6hFieldsOf .m0F 0x34A7D3296F01A14FC84F8DAA49EE83CF)) [0, 1, 2] =
    some [0xBCD42000, 0xBAEC6000, 0xC3F8A000] := by decide

/-! ### BC7 blocks (L2.6): all 16 words of OUTB -/

theorem test_bc7Mode0 : outb7 (.bc7Mode0 (bc7FieldsOf .m0 0x5EFB040C28D656F5B3FA9B135F14EE33)) =
    some [0xFFDDA22E, 0xFFA99D6C, 0xFFF7A510, 0xFFB69F5D, 0xFFD68473, 0xFFACCA9E, 0xFFD68473, 0xFFD68473,
      0xFFCF907A, 0xFFD68473, 0xFFACCA9E, 0xFFACCA9E, 0xFFBDDEFF, 0xFFB4C9EF, 0xFF9788BD, 0xFF845F9C] := by decide

theorem test_bc7Mode1 : outb7 (.bc7Mode1 (bc7FieldsOf .m1 0xAA751AC5E0257144C9B5B83301345766)) =
    some [0xFF2CC45B, 0xFF31BA57, 0xFF26CF5E, 0xFF26CF5E, 0xFF70B500, 0xFF43984D, 0xFF26CF5E, 0xFF37AF54,
      0xFF557641, 0xFF37AF54, 0xFF3DA350, 0xFF31BA57, 0xFF70B500, 0xFF639620, 0xFF31BA57, 0xFF43984D] := by decide

theorem test_bc7Mode2 : outb7 (.bc7Mode2 (bc7FieldsOf .m2 0x8CE44039BF075C795FA16C70BCF8AA2C)) =
    some [0xFF4EC079, 0xFFBDB510, 0xFF7384FF, 0xFF7384FF, 0xFF18C6AD, 0xFF18C6AD, 0xFF7ED1EF, 0xFF7384FF,
      0xFF87BB44, 0xFF18C6AD, 0xFF31CEE7, 0xFFBB8067, 0xFF87BB44, 0xFF4EC079, 0xFFFF5A29, 0xFFBB8067] := by decide

theorem test_bc7Mode3 : outb7 (.bc7Mode3 (bc7FieldsOf .m3 0xDA5995CEB18D9A986D3ADC51C8F6E778)) =
    some [0xFF66D19E, 0xFF66D19E, 0xFF1AA690, 0xFFC71B47, 0xFF537878, 0xFF66D19E, 0xFF66D19E, 0xFF8E495F,
      0xFF537878, 0xFF8E495F, 0xFF66D19E, 0xFF66D19E, 0xFF81BECB, 0xFF8E495F, 0xFF537878, 0xFF9BADF7] := by decide

theorem test_bc7Mode4 : outb7 (.bc7Mode4 (bc7FieldsOf .m4 0x8289B63A690E986B434FEDFA05101030)) =
    some [0x594E31EB, 0x594E31E3, 0x2BA142EF, 0x2BA142EF, 0x594E31F7, 0x840021EF, 0x2BA142F7, 0x2BA142E3,
      0x594E31F7, 0x594E31F7, 0x00EF52F7, 0x840021EF, 0x840021DF, 0x00EF52F3, 0x840021DF, 0x594E31EF] := by decide

theorem test_bc7Mode5 : outb7 (.bc7Mode5 (bc7FieldsOf .m5 0xE59C4D1071A6F66CBA460D2E5A4E39A0)) =
    some [0xD99A915F, 0xD99A915F, 0xE5837138, 0xD3A59172, 0xE5837138, 0xDF8E2E4B, 0xE5839138, 0xD99A715F,
      0xE5839138, 0xD3A52E72, 0xD99A715F, 0xE5834E38, 0xD3A57172, 0xDF8E714B, 0xE5834E38, 0xD3A52E72] := by decide

theorem test_bc7Mode6 : outb7 (.bc7Mode6 (bc7FieldsOf .m6 0x2667BBF53B2E950E390F9D47F4C1F340)) =
    some [0x3D8B9F73, 0x0E504CCC, 0x2F79868E, 0x499BB65B, 0x6CC6F31A, 0x1C6265B1, 0x57ADCF40, 0x226A70A5,
      0x2F79868E, 0x72CEFE0E, 0x57ADCF40, 0x57ADCF40, 0x3D8B9F73, 0x3783947F, 0x3783947F, 0x1C6265B1] := by decide

theorem test_bc7Mode7 : outb7 (.bc7Mode7 (bc7FieldsOf .m7 0x4ABA76C568958E2995EAC5A6A58A7C80)) =
    some [0x30B05161, 0x1CBE4D4D, 0x45A05576, 0x30B05161, 0xA28AAAAA, 0x86769381, 0xA28AAAAA, 0x4D4D652C,
      0x30B05161, 0x5992598A, 0x69617C55, 0x69617C55, 0x30B05161, 0x30B05161, 0x86769381, 0x4D4D652C] := by decide

/-! ## Witnesses: states and operands that meet the hypotheses of each statement, at the ends of their ranges -/

/-- An instance whose last command faulted. -/
def broken : State := { busy 0xC with status := 0x11 }

/-- The well-formed fields of the mode-0x00 block of all ones. -/
def ones00 : Bc6hFields := f6 ⟨0x3FF, 0x3FF, 0x3FF⟩ ⟨31, 31, 31⟩ ⟨31, 31, 31⟩ ⟨31, 31, 31⟩ 31 0x3FFFFFFFFFFF

/-- The well-formed fields of the mode-7 block of all ones. -/
def ones7 : Bc7Fields :=
  ⟨63, 0, 0, ⟨31, 31, 31, 31⟩, ⟨31, 31, 31, 31⟩, ⟨31, 31, 31, 31⟩, ⟨31, 31, 31, 31⟩, z7, z7, 15, 0x3FFFFFFF, 0⟩

/-- An unfaulted and a faulted instance, the two cases of every host access. -/
theorem witness_fault_bit : (busy 0).faulted = false ∧ State.reset.faulted = false ∧ broken.faulted = true := by decide

/-- For every opcode below 0xC, a word whose reserved bits are 0 and one whose highest reserved bit is 1: both
sides of `Spells` in each command's statement, and of ReservedBitsAreRejected and ChecksComeInOrder. -/
theorem witness_Spells : ∀ k : Fin 12,
    (BitVec.ofNat 32 k.val).extractLsb' 0 4 = BitVec.ofNat 4 k.val ∧
    BitVec.ofNat 32 k.val &&& reservedMask k.val = 0 ∧
    (BitVec.ofNat 32 (2 ^ 31 + k.val)).extractLsb' 0 4 = BitVec.ofNat 4 k.val ∧
    BitVec.ofNat 32 (2 ^ 31 + k.val) &&& reservedMask k.val ≠ 0 ∧
    decodeCommand (BitVec.ofNat 32 (2 ^ 31 + k.val)) = .error .reservedField := by decide

theorem witness_CommandsSurviveEncoding :
    encode (.rdbits 127 127) = .command 0x3FFF2 ∧ encode (.reservedF 0xFFFFFFF) = .command 0xFFFFFFFF ∧
    encode .nop = .command 0 := by decide

theorem witness_Bc6hBlocksSurviveEncoding :
    ((Instr.bc6hMode00 ones00).wf = true ∧ ∃ b, encode (.bc6hMode00 ones00) = .bc6hBlock b) ∧
    ((Instr.bc6hReserved1F (-1)).wf = true ∧ encode (.bc6hReserved1F (-1)) = .bc6hBlock (-1)) :=
  ⟨⟨by decide, _, rfl⟩, by decide⟩

theorem witness_Bc7BlocksSurviveEncoding :
    ((Instr.bc7Mode7 ones7).wf = true ∧ ∃ b, encode (.bc7Mode7 ones7) = .bc7Block b) ∧
    ((Instr.bc7Reserved 0).wf = true ∧ encode (.bc7Reserved 0) = .bc7Block 0) :=
  ⟨⟨by decide, _, rfl⟩, by decide⟩

theorem witness_EveryEncodingSpellsOneInstruction :
    decode (.command 0) = .ok .nop ∧ decode (.bc6hBlock 0) = .ok (.bc6hMode00 (f6 z6 z6 z6 z6 0 0)) ∧
    decode (.bc7Block 0) = .ok (.bc7Reserved 0) := by decide

theorem witness_Bc6hSelectorSpace :
    (0x1C : Block).extractLsb' 0 2 = 0 ∧ (0x1D : Block).extractLsb' 0 2 = 1 ∧
    ((0x02 : Block).extractLsb' 0 2).toNat = 2 ∧ ((0x1F : Block).extractLsb' 0 2).toNat = 3 ∧
    bc6hModeOfId (bc6hSelector 0x0F).1 = some .m0F ∧ bc6hModeOfId (bc6hSelector 0x13).1 = none ∧
    ∀ k : Bc6hReserved, (BitVec.ofNat 128 (bc6hReservedId k)).extractLsb' 0 5 = BitVec.ofNat 5 (bc6hReservedId k) := by
  refine ⟨by decide, by decide, by decide, by decide, by decide, by decide, fun k => ?_⟩
  cases k <;> decide

theorem witness_Bc7SelectorIsTheLowestSetBit :
    bc7Selector 0xFF = bc7ModeId .m0 ∧ bc7Selector 0x80 = bc7ModeId .m7 ∧ bc7Selector 0x100 = 8 := by decide

theorem witness_Bc6hFixedPositions : (bc6hDesc .m00).ns = 2 ∧ (bc6hDesc .m1E).ns = 2 := by decide

theorem witness_DescriptorsAreConsistent :
    (bc6hDesc .m00).ns = 2 ∧ (bc6hDesc .m03).ns = 1 ∧ (bc6hDesc .m0F).transformed = true ∧ Chan.r ≠ Chan.a ∧
    (bc7Desc .m7).ns > 1 ∧ (bc7Desc .m4).ab > 0 := by decide

theorem witness_BlockViewsAgree :
    (nextOf (exec (.rdbits 64 64) (at' exb 0 0))).isSome ∧ (nextOf (exec (.rdbits 64 1) (at' exb 0 0))).isSome ∧
    (nextOf (exec (.rdbits (BitVec.ofNat 7 (32 * 3)) 32) (at' exb 0 0))).isSome := by decide

theorem witness_RdbitsReadsTheField :
    (∀ x ∈ [(0, 1), (127, 1), (64, 64), (0, 64)], 1 ≤ x.2 ∧ x.2 ≤ 64 ∧ x.1 + x.2 ≤ 128) ∧
    (64 : BitVec 7).toNat + (64 : BitVec 7).toNat = 128 ∧
    (∀ x ∈ [(0, 0), (0, 65), (65, 64), (127, 2)], x.2 = 0 ∨ x.2 > 64 ∨ x.1 + x.2 > 128) := by decide

theorem witness_ModeqReportsTheDescriptor :
    bc6hModeOfId (bc6hSelector (at' 0 0 0).blk).1 = some .m00 ∧
    bc6hModeOfId (bc6hSelector (at' 0x0F 0 0).blk).1 = some .m0F ∧
    bc6hModeOfId (bc6hSelector (at' 0x1F 0 0).blk).1 = none ∧
    bc7Selector (at' 1 0 0).blk = bc7ModeId .m0 ∧ bc7Selector (at' 0x80 0 0).blk = bc7ModeId .m7 ∧
    bc7Selector (at' 0 0 0).blk = 8 := by decide

theorem witness_PartqReportsSubsetAndAnchors :
    ((3 : BitVec 2) ≠ 0 ∧ ((3 : BitVec 2) = 1 → (63 : BitVec 6) = 0)) ∧
    ((1 : BitVec 2) ≠ 0 ∧ ((1 : BitVec 2) = 1 → (0 : BitVec 6) = 0)) ∧
    ((0 : BitVec 2) = 0 ∧ (1 : BitVec 2) = 1 ∧ (1 : BitVec 6) ≠ 0) := by decide

theorem witness_InterpBlendsTheOperands :
    (∀ x ∈ [(3, 2), (7, 3), (15, 4), (0, 4)], (x.2 = 2 ∨ x.2 = 3 ∨ x.2 = 4) ∧ x.1 < 2 ^ x.2 ∧ x.1 < 16) ∧
    (∀ x ∈ [(4, 2), (8, 3)], 2 ^ x.2 ≤ x.1 ∧ x.1 < 16) ∧
    (∀ p ∈ [0, 1, 5, 7], (BitVec.ofNat 3 p) ≠ 2 ∧ (BitVec.ofNat 3 p) ≠ 3 ∧ (BitVec.ofNat 3 p) ≠ 4) := by decide

theorem witness_Unq6UnquantizesTheOperand :
    (1 ≤ (1 : BitVec 5).toNat ∧ (16 : BitVec 5).toNat ≤ 16) ∧
    (0 ≤ (at' 0 1 0).arg0.toInt ∧ (at' 0 1 0).arg0.toInt ≤ 2 ^ 1 - 1) ∧
    ((at' 0 0xFFFF 0).arg0.toInt ≤ 2 ^ 16 - 1) ∧
    (-(2 ^ (1 - 1)) ≤ (at' 0 (-1) 0).arg0.toInt ∧ (at' 0 (-1) 0).arg0.toInt ≤ 2 ^ (1 - 1) - 1) ∧
    (-(2 ^ (16 - 1)) ≤ (at' 0 (-32768) 0).arg0.toInt ∧ (at' 0 32767 0).arg0.toInt ≤ 2 ^ (16 - 1) - 1) ∧
    ((17 : BitVec 5).toNat > 16 ∧ ¬ 0 ≤ (at' 0 (-1) 0).arg0.toInt ∧ ¬ (at' 0 0x10000 0).arg0.toInt ≤ 2 ^ 16 - 1 ∧
      ¬ (at' 0 32768 0).arg0.toInt ≤ 2 ^ (16 - 1) - 1) := by decide

theorem witness_FinishConvertsTheOperand :
    (0 ≤ (at' 0 0 0).arg0.toInt ∧ (at' 0 0xFFFF 0).arg0.toInt ≤ 0xFFFF) ∧
    ((at' 0 (-32768) 0).arg0.toInt = -32768 ∧ (at' 0 32767 0).arg0.toInt = 32767) ∧
    ((at' 0 0x10000 0).arg0.toInt = 0xFFFF + 1 ∧ (at' 0 (-32769) 0).arg0.toInt = -32768 - 1) := by decide

theorem witness_Expand7ReplicatesTheBits :
    (4 ≤ (4 : BitVec 4).toNat ∧ (15 : BitVec 8).toNat < 2 ^ (4 : BitVec 4).toNat) ∧
    ((8 : BitVec 4).toNat ≤ 8 ∧ (255 : BitVec 8).toNat < 2 ^ (8 : BitVec 4).toNat) ∧
    ((3 : BitVec 4).toNat < 4 ∧ 8 < (9 : BitVec 4).toNat ∧ 2 ^ (4 : BitVec 4).toNat ≤ (16 : BitVec 8).toNat) := by
  decide

theorem witness_ReservedOpcodesRaiseBadOpcode :
    0xC ≤ ((0xC : Word).extractLsb' 0 4).toNat ∧ 0xC ≤ ((0xFFFFFFFF : Word).extractLsb' 0 4).toNat := by decide

theorem witness_InterpolationStaysBetweenItsEndpoints :
    (∀ p ∈ [2, 3, 4], (p = 2 ∨ p = 3 ∨ p = 4) ∧ 2 ^ p - 1 < 2 ^ p) ∧
    interpolate 0 255 15 4 = 255 ∧ interpolate (-32768) (-32768) 7 3 = -32768 ∧ interpolate 0xFFFF 0 0 2 = 0xFFFF := by
  decide

theorem witness_UnquantizationProperties :
    unquantize6 0 1 true = 0 ∧ unquantize6 1 1 false = 0xFFFF ∧ unquantize6 (-1) 1 true = -0x7FFF ∧
    unquantize6 16383 15 true = 0x7FFF ∧ unquantize6 65535 16 false = 65535 := by decide

theorem witness_HalfOutputRanges :
    finishUnquantize .signMagnitude 0 false = 0 ∧ finishScale (-0x7FFF) = -0x7BFF ∧ finishScale 0x7FFF = 0x7BFF := by
  decide

/-- One half of each class, with its fields: zero, the ends of the subnormals and of the normals, infinity, NaN. -/
theorem witness_HalfWideningFollowsIeee :
    ((0x0001#16).extractLsb' 10 5 = 0#5 ∧ (0x0001#16).extractLsb' 0 10 ≠ 0#10) ∧
    ((0x83FF#16).extractLsb' 10 5 = 0#5 ∧ (0x83FF#16).extractLsb' 0 10 ≠ 0#10) ∧
    ((0x0400#16).extractLsb' 10 5 ≠ 0#5 ∧ (0xFBFF#16).extractLsb' 10 5 ≠ 31#5) ∧
    ((0x7C00#16).extractLsb' 10 5 = 31#5 ∧ (0xFFFF#16).extractLsb' 10 5 = 31#5) ∧
    ((0x8000#16).extractLsb' 10 5 = 0#5 ∧ (0x8000#16).extractLsb' 0 10 = 0#10) ∧
    finishUnquantize .signMagnitude (-32768) true = 0xFC00#16 :=
  ⟨by decide, by decide, by decide, by decide, by decide, by decide⟩

theorem witness_WideningKeepsTheValue :
    (0xFBFF#16).extractLsb' 10 5 ≠ 31#5 ∧ floatValue 10 5 (0xFBFF#16) = -(2047 * 2 ^ 29) ∧
    (0x0001#16).extractLsb' 10 5 ≠ 31#5 ∧ floatValue 10 5 (0x0001#16) = 1 := by decide

theorem witness_ExpansionProperties :
    (4 ≤ 4 ∧ 15 < 2 ^ 4 ∧ expand7 14 4 = 238 ∧ expand7 15 4 = 255) ∧ (8 ≤ 8 ∧ 255 < 2 ^ 8 ∧ expand7 255 8 = 255) := by
  decide

theorem witness_IndicesTileTheField :
    (1 ≤ 1 ∧ 63 < 64) ∧ (0 ∈ anchors 1 63 ∧ 15 ∈ anchors 2 0 ∧ 15 ∈ anchors 3 0 ∧ 15 ∉ anchors 1 0) ∧
    (colorIndex 0x0123456789ABCDEF 0 4 1 0 = 7 ∧ colorIndex 0x0123456789ABCDEF 1 4 1 0 = 13) ∧
    indexOffset 15 4 1 0 + indexBits 15 4 1 0 = 63 ∧ indexOffset 15 3 3 63 + indexBits 15 3 3 63 = 45 := by decide

theorem witness_Bc6hEndpoints :
    ones00.wf (bc6hDesc .m00) = true ∧ 3 < 2 * (bc6hDesc .m00).ns ∧ Chan.b ≠ Chan.a ∧
    (f6 ⟨0x3FF, 0, 0⟩ ⟨0x3FF, 0, 0⟩ z6 z6 0 0).wf (bc6hDesc .m03) = true ∧ 1 < 2 * (bc6hDesc .m03).ns ∧
    (f6 ⟨0xFFFF, 0, 0⟩ ⟨0xF, 0, 0⟩ z6 z6 0 0).wf (bc6hDesc .m0F) = true := by decide

theorem witness_Bc6hDecodes :
    bc6hModeOfId (bc6hSelector (busy 3).blk).1 = some .m00 ∧
    (nextOf (exec .decbc6u (busy 3))).isSome ∧
    bc6hModeOfId (bc6hSelector (at' 0x13 0 0).blk).1 = none := by decide

theorem witness_Bc7Endpoints :
    5 < 2 * (bc7Desc .m0).ns ∧ 0 < 2 * (bc7Desc .m6).ns ∧ ones7.wf (bc7Desc .m7) = true ∧
    3 < 2 * (bc7Desc .m7).ns := by decide

theorem witness_Bc7Decodes :
    bc7Selector (at' 0x80 0 0).blk = bc7ModeId .m7 ∧ bc7Selector (at' 0 0 0).blk = 8 := by decide

theorem witness_ModesWithoutAlphaAreOpaque :
    bc7Selector (at' 1 0 0).blk = bc7ModeId .m0 ∧ bc7Selector (at' 8 0 0).blk = bc7ModeId .m3 ∧
    (nextOf (exec .decbc7 (at' 8 0 0))).isSome := by decide

theorem witness_InvalidSelectorsZeroFill :
    bc6hModeOfId (bc6hSelector (at' 0x1F 0 0).blk).1 = none ∧ (at' 0x100 0 0).blk.extractLsb' 0 8 = 0 := by decide

theorem witness_ZeroBlockDecodesToZeros : (at' 0 0 0).blk = 0 := by decide

theorem witness_BlocksRunAsTheirCommand :
    (busy 4).cmd.extractLsb' 0 4 = 0x4 ∧ (busy 3).cmd.extractLsb' 0 4 ≠ 0x4 := by decide

theorem witness_UnsignedOutputsAreFinite : (nextOf (exec .decbc6u (at' (0x0F + 2 ^ 39) 0 0))).isSome := by decide

/-- Mode 0x0F, E[0].R = 0x8000: the one block shape that gives minus infinity. -/
theorem witness_SignedOutputsAreNumbers :
    (at' (0x0F + 2 ^ 39) 0 0).sf16Neg = .signMagnitude ∧
    (nextOf (exec .decbc6s (at' (0x0F + 2 ^ 39) 0 0))).map (fun t => t.outf[0]) = some 0xFF800000 := by decide

/-- A CMD write that faults on its operands, and one that completes. -/
theorem witness_FaultsArePrecise :
    (nextOf (step { busy 0 with hostIn := [.write 32 0 0x2, .read 32 4] })).map
      (fun t => (t.faulted, t.cmd, t.status, t.hostIn)) = some (true, 0x2, 0x33, [.read 32 4]) ∧
    (nextOf (step { busy 5 with hostIn := [.write 32 0 0] })).map (fun t => t.faulted) = some false := by decide

theorem witness_ChecksComeInOrder :
    broken.faulted = true ∧ (busy 0).faulted = false ∧
    12 ≤ ((0xFFFFFFFC : Word).extractLsb' 0 4).toNat ∧
    (((0x1000B : Word).extractLsb' 0 4).toNat < 12 ∧
      (0x1000B : Word) &&& reservedMask ((0x1000B : Word).extractLsb' 0 4).toNat ≠ 0) ∧
    (((0xFFFB : Word).extractLsb' 0 4).toNat < 12 ∧
      (0xFFFB : Word) &&& reservedMask ((0xFFFB : Word).extractLsb' 0 4).toNat = 0) := by decide

/-- The ends of the ranges of R56, mapped and not, writable and not. -/
theorem witness_offsets :
    (∀ o ∈ [0x000, 0x014, 0x020, 0x02C, 0x100, 0x1BC, 0x200, 0x23C], accessReg 32 (BitVec.ofNat 10 o) ≠ none ∧
      MappedOffset o) ∧
    (∀ o ∈ [0x001, 0x018, 0x01C, 0x030, 0x0FC, 0x1C0, 0x1FC, 0x240, 0x3FF],
      accessReg 32 (BitVec.ofNat 10 o) = none ∧ ¬ MappedOffset o) ∧
    accessReg 16 0 = none ∧ (∀ o ∈ [0x000, 0x008, 0x00C, 0x020, 0x02C], WritableOffset o) ∧
    ∀ o ∈ [0x004, 0x010, 0x014, 0x100, 0x23C], MappedOffset o ∧ ¬ WritableOffset o := by
  unfold MappedOffset WritableOffset
  decide

theorem witness_FaultLastsUntilReset :
    broken.faulted = true ∧ (∀ e ∈ ([.write 32 0 3, .read 32 4, .read 8 1] : List HostEvent), e.isAccess = true) := by
  decide

theorem witness_WritesStoreTheirValue :
    (nextOf (step { busy 0 with hostIn := [.write 32 0x02C 0x80000000] })).map (fun t => t.blk.getLsbD 127) = some true := by
  decide

theorem witness_HostLinesSpellTheirCommands :
    expandLine (.interpOf 0 (-1) 7 3) = some [.write 32 8 0, .write 32 12 0xFFFFFFFF, .write 32 0 0x378] ∧
    ([0, 1, 2, 3, 4, 5, 6, 7, 8, 9, 10, 11, 12, 13, 14] : List Byte).length ≠ 16 := by decide

theorem witness_StepRunsTheDecodedInstruction :
    decodeCommand 0x1A = .ok (.finish true) ∧ State.reset.hostIn = [] := by decide

theorem witness_PlacedWordRunsNext : decodeTableWord 32 0x1A = some (.finish true) ∧ decodeTableWord 8 0x40 =
    some (.bc7Mode6 ⟨0, 0, 0, z7, z7, z7, z7, z7, z7, 0, 0, 0⟩) := by decide

theorem witness_StepsKeepTheStateLegal :
    (busy 0).legal = true ∧ broken.legal = true ∧
    (nextOf (step { busy 0 with hostIn := [.write 32 0 0xC] })).map (fun t => t.status) = some 0x13 := by decide

theorem witness_CommandsWriteOnlyTheirRegisters :
    writesRes .decbc7 = false ∧ decodesBc6h .decbc7 = false ∧ decodesBc7 .decbc6s = false ∧
    (decodesBc6h .nop = false ∧ decodesBc7 .nop = false) ∧ (nextOf (exec .nop (busy 0))).isSome ∧
    (nextOf (exec .decbc7 (busy 5))).isSome := by decide

/-- Two states that share the block and the parameter and nothing else. -/
theorem witness_DecodesDependOnlyOnTheBlock :
    (busy 3).blk = (at' exb 0 0).blk ∧ (busy 3).sf16Neg = (at' exb 0 0).sf16Neg ∧ busy 3 ≠ at' exb 0 0 ∧
    (nextOf (exec .decbc6s (busy 3))).isSome ∧ (nextOf (exec .decbc6s (at' exb 0 0))).isSome := by decide

theorem witness_ParsedBlockIsNotObservable : (nextOf (exec .decbc7 (at' exb 0 0))).isSome := by decide

end Sys2Proof.Tests
end

section
/-! PROOFS, 10_state: what a command can do to the state (R28), and that nothing but the ParsedBlock field
depends on a ParsedBlock left over (R34). -/

namespace Sys2Proof.Machine

/-! ## The effect of a command -/

/-- What a command can do to the state (R28, R310): keep it, write RES, raise a fault, or decode a parsed block
of either family. -/
inductive Effect where
  | keep
  | result (v : BitVec 64)
  | fault (c : Cause)
  | bc6h (pb : ParsedBlock)
  | bc7 (pb : ParsedBlock)

/-- The state an effect leaves. -/
def Effect.applyTo : Effect → State → State
  | .keep, s => s
  | .result v, s => writeRes v s
  | .fault c, s => raiseFault c s
  | .bc6h pb, s => endDecode (formatBc6h (beginDecode pb s))
  | .bc7 pb, s => endDecode (formatBc7 (beginDecode pb s))

/-- The effects R28 lets an instruction have. -/
def Effect.allowedTo : Effect → Instr → Bool
  | .keep, _ | .fault _, _ => true
  | .result _, i => writesRes i
  | .bc6h _, i => decodesBc6h i
  | .bc7 _, i => decodesBc7 i

@[simp] theorem Effect.applyTo_cmd (e : Effect) (s : State) : (e.applyTo s).cmd = s.cmd := by
  cases e <;> simp [applyTo]

@[simp] theorem Effect.applyTo_arg0 (e : Effect) (s : State) : (e.applyTo s).arg0 = s.arg0 := by
  cases e <;> simp [applyTo]

@[simp] theorem Effect.applyTo_arg1 (e : Effect) (s : State) : (e.applyTo s).arg1 = s.arg1 := by
  cases e <;> simp [applyTo]

@[simp] theorem Effect.applyTo_blk (e : Effect) (s : State) : (e.applyTo s).blk = s.blk := by
  cases e <;> simp [applyTo]

@[simp] theorem Effect.applyTo_sf16Neg (e : Effect) (s : State) : (e.applyTo s).sf16Neg = s.sf16Neg := by
  cases e <;> simp [applyTo]

@[simp] theorem Effect.applyTo_hostIn (e : Effect) (s : State) : (e.applyTo s).hostIn = s.hostIn := by
  cases e <;> simp [applyTo]

@[simp] theorem Effect.applyTo_readLog (e : Effect) (s : State) : (e.applyTo s).readLog = s.readLog := by
  cases e <;> simp [applyTo]

theorem Effect.applyTo_res {e : Effect} {i : Instr} (s : State) (ha : e.allowedTo i = true)
    (hi : writesRes i = false) : (e.applyTo s).res = s.res := by
  cases e with
  | result v => simp [allowedTo, hi] at ha
  | keep | fault c | bc6h pb | bc7 pb => simp [applyTo]

theorem Effect.applyTo_outf {e : Effect} {i : Instr} (s : State) (ha : e.allowedTo i = true)
    (hi : decodesBc6h i = false) : (e.applyTo s).outf = s.outf := by
  cases e with
  | bc6h pb => simp [allowedTo, hi] at ha
  | keep | result v | fault c | bc7 pb => simp [applyTo]

theorem Effect.applyTo_outb {e : Effect} {i : Instr} (s : State) (ha : e.allowedTo i = true)
    (hi : decodesBc7 i = false) : (e.applyTo s).outb = s.outb := by
  cases e with
  | bc7 pb => simp [allowedTo, hi] at ha
  | keep | result v | fault c | bc6h pb => simp [applyTo]

theorem Effect.applyTo_invalid {e : Effect} {i : Instr} (s : State) (ha : e.allowedTo i = true)
    (h6 : decodesBc6h i = false) (h7 : decodesBc7 i = false) :
    statusInvalid (e.applyTo s).status = statusInvalid s.status := by
  cases e with
  | bc6h pb => simp [allowedTo, h6] at ha
  | bc7 pb => simp [allowedTo, h7] at ha
  | fault c => exact statusWithFault_invalid s.status c
  | keep | result v => rfl

/-- A ParsedBlock in the state before an effect shows at most in the ParsedBlock field after it (R34). -/
theorem Effect.applyTo_ignores_parsed (e : Effect) (s : State) (p : Option ParsedBlock) :
    { e.applyTo { s with parsed := p } with parsed := none } = { e.applyTo s with parsed := none } := by
  cases e <;> rfl

/-! ## Decode commands read BLK alone -/

/-- A BC6H decode command parses BLK and nothing else of the state (R20, R181). -/
theorem decodeBlkBc6h_eq_run (signed : Bool) (blk : Block) : ∃ pb : ParsedBlock, pb.signed = signed ∧
    ∀ s : State, s.blk = blk → decodeBlkBc6h signed s = runBc6h pb s := by
  cases h : bc6hModeOfId (bc6hSelector blk).1 with
  | some m =>
    refine ⟨parseBc6h m signed (bc6hFieldsOf m blk), rfl, ?_⟩
    rintro s rfl
    exact decodeBlkBc6h_valid signed s m h
  | none =>
    refine ⟨parseInvalid (bc6hSelector blk).1 signed, rfl, ?_⟩
    rintro s rfl
    exact decodeBlkBc6h_invalid signed s h

/-- DECBC7 parses BLK and nothing else of the state (R20, R208). -/
theorem exec_decbc7_eq_run (blk : Block) : ∃ pb : ParsedBlock,
    ∀ s : State, s.blk = blk → exec .decbc7 s = runBc7 pb s := by
  cases h : bc7ModeOfId (bc7Selector blk) with
  | some m =>
    refine ⟨parseBc7 m (bc7FieldsOf m blk), ?_⟩
    rintro s rfl
    exact exec_decbc7_valid s m h
  | none =>
    refine ⟨parseInvalid 8 false, ?_⟩
    rintro s rfl
    exact exec_decbc7_invalid s h

/-! ## Every instruction has one effect, whatever ParsedBlock is left over -/

/-- From `s`, with any ParsedBlock in its place, `i` has one and the same effect, and one R28 lets it have. -/
def HasEffect (i : Instr) (s : State) : Prop :=
  ∃ e : Effect, e.allowedTo i = true ∧
    ∀ p : Option ParsedBlock, exec i { s with parsed := p } = .next (e.applyTo { s with parsed := p })

/-- A command that writes RES inside its operand domain and faults outside it. -/
theorem hasEffect_of_domain {i : Instr} {s : State} (inDomain : Bool) (v : BitVec 64) (c : Cause)
    (hi : writesRes i = true)
    (hin : inDomain = true → ∀ p, exec i { s with parsed := p } = .next (writeRes v { s with parsed := p }))
    (hout : inDomain = false → ∀ p, exec i { s with parsed := p } = faultWith c { s with parsed := p }) :
    HasEffect i s := by
  cases h : inDomain with
  | true => exact ⟨.result v, hi, hin h⟩
  | false => exact ⟨.fault c, rfl, hout h⟩

theorem hasEffect_decodeBlkBc6h {i : Instr} (s : State) (signed : Bool) (hi : decodesBc6h i = true)
    (he : ∀ s', exec i s' = decodeBlkBc6h signed s') : HasEffect i s := by
  obtain ⟨pb, -, hrun⟩ := decodeBlkBc6h_eq_run signed s.blk
  exact ⟨.bc6h pb, hi, fun p => (he _).trans (hrun _ rfl)⟩

theorem hasEffect_decbc7 (s : State) : HasEffect .decbc7 s := by
  obtain ⟨pb, hrun⟩ := exec_decbc7_eq_run s.blk
  exact ⟨.bc7 pb, rfl, fun p => hrun _ rfl⟩

theorem hasEffect_ofBc6h (m : Bc6hMode) (f : Bc6hFields) (s : State) : HasEffect (.ofBc6h m f) s :=
  ⟨.bc6h (parseBc6h m (blockSigned s) f), by cases m <;> rfl, fun _ => exec_ofBc6h m f _⟩

theorem hasEffect_ofBc6hReserved (k : Bc6hReserved) (rest : BitVec 123) (s : State) :
    HasEffect (.ofBc6hReserved k rest) s :=
  ⟨.bc6h (parseInvalid (bc6hReservedId k) (blockSigned s)), by cases k <;> rfl,
    fun _ => exec_ofBc6hReserved k rest _⟩

theorem hasEffect_ofBc7 (m : Bc7Mode) (f : Bc7Fields) (s : State) : HasEffect (.ofBc7 m f) s :=
  ⟨.bc7 (parseBc7 m f), by cases m <;> rfl, fun _ => exec_ofBc7 m f _⟩

/-- What an instruction can do, said once (R28, R310). -/
theorem exec_hasEffect (i : Instr) (s : State) : HasEffect i s := by
  cases i with
  | nop => exact ⟨.keep, rfl, fun _ => rfl⟩
  | rdbit off => exact ⟨.result (BitVec.ofNat 64 (memRead s.blk off.toNat 1)), rfl, fun _ => exec_rdbit off _⟩
  | rdbits off len =>
    exact hasEffect_of_domain (readInRange off.toNat len.toNat)
      (BitVec.ofNat 64 (memRead s.blk off.toNat len.toNat)) .readRange rfl
      (fun h _ => exec_rdbits_inRange off len _ h) (fun h _ => exec_rdbits_outOfRange off len _ h)
  | decbc6u => exact hasEffect_decodeBlkBc6h s false rfl exec_decbc6u
  | decbc6s => exact hasEffect_decodeBlkBc6h s true rfl exec_decbc6s
  | decbc7 => exact hasEffect_decbc7 s
  | modeq codec =>
    cases codec with
    | bc6h => exact ⟨.result (modeqBc6h s.blk), rfl, fun _ => exec_modeq_bc6h _⟩
    | bc7 => exact ⟨.result (modeqBc7 s.blk), rfl, fun _ => exec_modeq_bc7 _⟩
  | partq ns p k =>
    exact hasEffect_of_domain (partqInDomain ns.toNat p.toNat) _ .badOperand rfl
      (fun h _ => exec_partq_inDomain ns p k _ h) (fun h _ => exec_partq_outOfDomain ns p k _ h)
  | interp idx prec =>
    exact hasEffect_of_domain (interpInDomain idx.toNat prec.toNat)
      (BitVec.ofInt 64 (interpolate s.arg0.toInt s.arg1.toInt idx.toNat prec.toNat)) .badOperand rfl
      (fun h _ => exec_interp_inDomain idx prec _ h) (fun h _ => exec_interp_outOfDomain idx prec _ h)
  | unq6 n sg =>
    exact hasEffect_of_domain (unq6InDomain n.toNat sg s.arg0.toInt)
      (BitVec.ofInt 64 (unquantize6 s.arg0.toInt n.toNat sg)) .badOperand rfl
      (fun h _ => exec_unq6_inDomain n sg _ h) (fun h _ => exec_unq6_outOfDomain n sg _ h)
  | finish sg =>
    exact hasEffect_of_domain (finishInDomain sg s.arg0.toInt)
      (finishResult (finishUnquantize s.sf16Neg s.arg0.toInt sg)) .badOperand rfl
      (fun h _ => exec_finish_inDomain sg _ h) (fun h _ => exec_finish_outOfDomain sg _ h)
  | expand7 n v =>
    exact hasEffect_of_domain (expand7InDomain n.toNat v.toNat) _ .badOperand rfl
      (fun h _ => exec_expand7_inDomain n v _ h) (fun h _ => exec_expand7_outOfDomain n v _ h)
  | reservedC rest | reservedD rest | reservedE rest | reservedF rest =>
    exact ⟨.fault .badOpcode, rfl, fun _ => rfl⟩
  | bc6hMode00 f => exact hasEffect_ofBc6h .m00 f s
  | bc6hMode01 f => exact hasEffect_ofBc6h .m01 f s
  | bc6hMode02 f => exact hasEffect_ofBc6h .m02 f s
  | bc6hMode06 f => exact hasEffect_ofBc6h .m06 f s
  | bc6hMode0A f => exact hasEffect_ofBc6h .m0A f s
  | bc6hMode0E f => exact hasEffect_ofBc6h .m0E f s
  | bc6hMode12 f => exact hasEffect_ofBc6h .m12 f s
  | bc6hMode16 f => exact hasEffect_ofBc6h .m16 f s
  | bc6hMode1A f => exact hasEffect_ofBc6h .m1A f s
  | bc6hMode1E f => exact hasEffect_ofBc6h .m1E f s
  | bc6hMode03 f => exact hasEffect_ofBc6h .m03 f s
  | bc6hMode07 f => exact hasEffect_ofBc6h .m07 f s
  | bc6hMode0B f => exact hasEffect_ofBc6h .m0B f s
  | bc6hMode0F f => exact hasEffect_ofBc6h .m0F f s
  | bc6hReserved13 rest => exact hasEffect_ofBc6hReserved .s13 rest s
  | bc6hReserved17 rest => exact hasEffect_ofBc6hReserved .s17 rest s
  | bc6hReserved1B rest => exact hasEffect_ofBc6hReserved .s1B rest s
  | bc6hReserved1F rest => exact hasEffect_ofBc6hReserved .s1F rest s
  | bc7Mode0 f => exact hasEffect_ofBc7 .m0 f s
  | bc7Mode1 f => exact hasEffect_ofBc7 .m1 f s
  | bc7Mode2 f => exact hasEffect_ofBc7 .m2 f s
  | bc7Mode3 f => exact hasEffect_ofBc7 .m3 f s
  | bc7Mode4 f => exact hasEffect_ofBc7 .m4 f s
  | bc7Mode5 f => exact hasEffect_ofBc7 .m5 f s
  | bc7Mode6 f => exact hasEffect_ofBc7 .m6 f s
  | bc7Mode7 f => exact hasEffect_ofBc7 .m7 f s
  | bc7Reserved rest => exact ⟨.bc7 (parseInvalid 8 false), rfl, fun _ => exec_bc7Reserved rest _⟩

/-- The inversion of `exec`: it ends in the state of an effect that R28 lets the instruction have. -/
theorem exec_eq_effect (i : Instr) (s : State) :
    ∃ e : Effect, e.allowedTo i = true ∧ exec i s = .next (e.applyTo s) := by
  obtain ⟨e, ha, he⟩ := exec_hasEffect i s
  exact ⟨e, ha, he s.parsed⟩

/-- Settles O57: the effect of an instruction writes only what R28 allows. -/
theorem commandsWriteOnlyTheirRegisters : Obligations.CommandsWriteOnlyTheirRegisters := by
  unfold Obligations.CommandsWriteOnlyTheirRegisters
  intro i s t ht
  obtain ⟨e, ha, he⟩ := exec_eq_effect i s
  obtain rfl : e.applyTo s = t := Host.Outcome.next.inj (he.symm.trans ht)
  exact ⟨e.applyTo_cmd s, e.applyTo_arg0 s, e.applyTo_arg1 s, e.applyTo_blk s, e.applyTo_sf16Neg s,
    e.applyTo_hostIn s, e.applyTo_readLog s, Effect.applyTo_res s ha, Effect.applyTo_outf s ha,
    Effect.applyTo_outb s ha, Effect.applyTo_invalid s ha⟩

/-- Settles O60: the effect of an instruction is the same with any other ParsedBlock in the state. -/
theorem parsedBlockIsNotObservable : Obligations.ParsedBlockIsNotObservable := by
  unfold Obligations.ParsedBlockIsNotObservable
  intro i s t p ht
  obtain ⟨e, -, he⟩ := exec_hasEffect i s
  obtain rfl : e.applyTo s = t := Host.Outcome.next.inj ((he s.parsed).symm.trans ht)
  exact ⟨e.applyTo { s with parsed := p }, he p, e.applyTo_ignores_parsed s p⟩

/-! ## What a decode leaves, as a function of its ParsedBlock -/

theorem runBc6h_next {pb : ParsedBlock} {s t : State} (h : runBc6h pb s = .next t) :
    t.outf = bc6hOutput s.sf16Neg pb ∧ statusInvalid t.status = !pb.valid := by
  rw [runBc6h_eq] at h
  obtain rfl := Host.Outcome.next.inj h
  exact ⟨rfl, statusWithInvalid_invalid s.status _⟩

theorem runBc7_next {pb : ParsedBlock} {s t : State} (h : runBc7 pb s = .next t) :
    t.outb = bc7Output pb ∧ statusInvalid t.status = !pb.valid := by
  rw [runBc7_eq] at h
  obtain rfl := Host.Outcome.next.inj h
  exact ⟨rfl, statusWithInvalid_invalid s.status _⟩

/-- The unsigned final scale never forms a negative pattern, so SF16_NEG_ENCODING plays no part (R257). -/
theorem bc6hOutput_unsigned {pb : ParsedBlock} (h : pb.signed = false) (enc enc' : NegEncoding) :
    bc6hOutput enc pb = bc6hOutput enc' pb := by
  have helt : ∀ d i c, bc6hElement d enc pb i c = bc6hElement d enc' pb i c := by
    intro d i c
    simp [bc6hElement, finishUnquantize, h]
  simp only [bc6hOutput, helt]

/-- Two BC6H decodes of one block agree where the SF16_NEG_ENCODING that a signed one reads does. -/
theorem decodeBlkBc6h_depends_on_blk {signed : Bool} {s s' t t' : State} (hb : s.blk = s'.blk)
    (henc : signed = true → s.sf16Neg = s'.sf16Neg)
    (ht : decodeBlkBc6h signed s = .next t) (ht' : decodeBlkBc6h signed s' = .next t') :
    t.outf = t'.outf ∧ t.status.getLsbD 1 = t'.status.getLsbD 1 := by
  obtain ⟨pb, hs, hrun⟩ := decodeBlkBc6h_eq_run signed s'.blk
  obtain ⟨ho, hi⟩ := runBc6h_next ((hrun s hb).symm.trans ht)
  obtain ⟨ho', hi'⟩ := runBc6h_next ((hrun s' rfl).symm.trans ht')
  have henc' : bc6hOutput s.sf16Neg pb = bc6hOutput s'.sf16Neg pb := by
    cases signed with
    | true => rw [henc rfl]
    | false => exact bc6hOutput_unsigned hs _ _
  exact ⟨ho.trans (henc'.trans ho'.symm), hi.trans hi'.symm⟩

/-- Settles O59: the ParsedBlock is a function of BLK, and the output one of the ParsedBlock. -/
theorem decodesDependOnlyOnTheBlock : Obligations.DecodesDependOnlyOnTheBlock := by
  unfold Obligations.DecodesDependOnlyOnTheBlock
  intro s s' hb
  refine ⟨fun t t' => decodeBlkBc6h_depends_on_blk hb nofun,
    fun t t' henc => decodeBlkBc6h_depends_on_blk hb fun _ => henc, ?_⟩
  intro t t' ht ht'
  obtain ⟨pb, hrun⟩ := exec_decbc7_eq_run s'.blk
  obtain ⟨ho, hi⟩ := runBc7_next ((hrun s hb).symm.trans ht)
  obtain ⟨ho', hi'⟩ := runBc7_next ((hrun s' rfl).symm.trans ht')
  exact ⟨ho.trans ho'.symm, hi.trans hi'.symm⟩

end Sys2Proof.Machine
end

section
/-! PROOFS, 10_state: the host's accesses to the registers (R55 to R57), the reset event (R340), and that every
step keeps a legal state legal (R22, R33). -/

namespace Sys2Proof.Machine

/-! ## The register window -/

/-- A 32-bit access to a register's own offset reaches it (R56). -/
theorem accessReg_regOffset (r : HostReg) : accessReg 32 (BitVec.ofNat 10 (regOffset r)) = some r := by
  cases r with
  | cmd | status | arg0 | arg1 | resLo | resHi => rfl
  | blkW k => revert k; decide
  | outf k => revert k; decide
  | outbW k => revert k; decide

/-- A step that reads a register (R56, R314). -/
theorem step_read_reg (r : HostReg) (s : State) (rest : List HostEvent) :
    step { s with hostIn := .read 32 (BitVec.ofNat 10 (regOffset r)) :: rest } =
      .next { s with hostIn := rest, readLog := readReg r { s with hostIn := rest } :: s.readLog } :=
  (step_event s _ rest).trans (hostRead_reg 32 _ _ r (accessReg_regOffset r))

/-- A step that writes a register of a decoder that is not faulted (R57). -/
theorem step_write_reg (r : HostReg) (v : Word) (s : State) (rest : List HostEvent) (h : s.faulted = false) :
    step { s with hostIn := .write 32 (BitVec.ofNat 10 (regOffset r)) v :: rest } =
      writeReg r v { s with hostIn := rest } :=
  (step_event s _ rest).trans (hostWrite_reg 32 _ v _ r h (accessReg_regOffset r))

/-- Settles O48: each offset of R56 is the offset of the register the map names. -/
theorem readsReturnTheirRegister : Obligations.ReadsReturnTheirRegister := by
  unfold Obligations.ReadsReturnTheirRegister
  intro s rest
  exact ⟨step_read_reg .cmd s rest, step_read_reg .status s rest, step_read_reg .arg0 s rest,
    step_read_reg .arg1 s rest, step_read_reg .resLo s rest, step_read_reg .resHi s rest,
    fun k => step_read_reg (.blkW k) s rest, fun k => step_read_reg (.outf k) s rest,
    fun k => step_read_reg (.outbW k) s rest⟩

/-- Settles O49: the write reaches its register, and a BLK word replaces its 32 block bits. -/
theorem writesStoreTheirValue : Obligations.WritesStoreTheirValue := by
  unfold Obligations.WritesStoreTheirValue
  intro s v rest h
  refine ⟨step_write_reg .arg0 v s rest h, step_write_reg .arg1 v s rest h, fun k => ?_⟩
  exact ⟨{ s with hostIn := rest, blk := setBlockWord s.blk k v }, step_write_reg (.blkW k) v s rest h, rfl,
    setBlockWord_getLsbD s.blk k v⟩

/-- Settles O54: the reset event is `takeReset`, whose registers are those of R36. -/
theorem resetSetsEveryRegister : Obligations.ResetSetsEveryRegister := by
  unfold Obligations.ResetSetsEveryRegister
  exact ⟨fun s d rest => step_event s (.reset d) rest, rfl, rfl, rfl⟩

/-! ## Legal states -/

/-- Two STATUS words that agree in the reserved bits have the same reserved part (R22). -/
theorem reservedStatus_eq {w w' : Word}
    (h : ∀ j, j < 32 → j ≠ 0 → j ≠ 1 → (j < 4 ∨ 8 ≤ j) → w'.getLsbD j = w.getLsbD j) :
    w' &&& 0xFFFFFF0C = w &&& 0xFFFFFF0C := by
  have hmask : ∀ j : Fin 32, (0xFFFFFF0C#32).getLsbD j = true →
      j.val ≠ 0 ∧ j.val ≠ 1 ∧ (j.val < 4 ∨ 8 ≤ j.val) := by decide
  apply BitVec.eq_of_getLsbD_eq
  intro j hj
  simp only [BitVec.getLsbD_and]
  cases hm : (0xFFFFFF0C#32).getLsbD j with
  | false => simp
  | true =>
    obtain ⟨h0, h1, h48⟩ := hmask ⟨j, hj⟩ hm
    rw [h j hj h0 h1 h48]

theorem statusWithFault_reserved (w : Word) (c : Cause) :
    statusWithFault w c &&& 0xFFFFFF0C = w &&& 0xFFFFFF0C := by
  refine reservedStatus_eq fun j hj h0 _ h48 => ?_
  rw [statusWithFault_getLsbD w c j hj, if_neg h0, if_neg (by omega)]

theorem statusWithInvalid_reserved (w : Word) (b : Bool) :
    statusWithInvalid w b &&& 0xFFFFFF0C = w &&& 0xFFFFFF0C := by
  refine reservedStatus_eq fun j hj _ h1 _ => ?_
  rw [statusWithInvalid_getLsbD w b j hj, if_neg h1]

/-- Every cause has a code of R311 other than NONE. -/
theorem causeCode_range (c : Cause) : (causeCode c).toNat ≤ 5 ∧ (causeCode c != 0) = true := by
  cases c <;> decide

/-- A fault entry writes FAULT and CAUSE together, so it keeps STATUS legal (R311, R313). -/
theorem legalStatus_withFault {w : Word} (c : Cause) (h : legalStatus w = true) :
    legalStatus (statusWithFault w c) = true := by
  obtain ⟨hle, hne⟩ := causeCode_range c
  simp only [legalStatus, Bool.and_eq_true] at h
  obtain ⟨⟨hres, -⟩, -⟩ := h
  simp only [legalStatus, statusWithFault_reserved, statusWithFault_fault, statusWithFault_cause, hres, hle, hne,
    decide_true, beq_self_eq_true, Bool.and_self]

/-- INVALID is no part of what makes STATUS legal (R22). -/
theorem legalStatus_withInvalid (w : Word) (b : Bool) : legalStatus (statusWithInvalid w b) = legalStatus w := by
  simp only [legalStatus, statusWithInvalid_reserved, statusWithInvalid_fault, statusWithInvalid_cause]

theorem State.legal_iff (s : State) : s.legal = true ↔ legalStatus s.status = true ∧ s.parsed = none := by
  simp [State.legal]

theorem raiseFault_legal (c : Cause) {s : State} (h : s.legal = true) : (raiseFault c s).legal = true := by
  obtain ⟨hst, hp⟩ := s.legal_iff.1 h
  exact (State.legal_iff _).2 ⟨legalStatus_withFault c hst, hp⟩

theorem afterReset_legal (d : ResetDraw) (neg : NegEncoding) (hostIn : List HostEvent) (readLog : List Word) :
    (State.afterReset d neg hostIn readLog).legal = true :=
  (State.legal_iff _).2 ⟨(by decide : legalStatus 0 = true), rfl⟩

/-- Settles O56: whatever the draw, reset leaves a legal state. -/
theorem resetStateIsLegal : Obligations.ResetStateIsLegal := by
  unfold Obligations.ResetStateIsLegal
  exact afterReset_legal _ _ _ _

theorem Effect.applyTo_legal (e : Effect) {s : State} (h : s.legal = true) : (e.applyTo s).legal = true := by
  obtain ⟨hst, hp⟩ := s.legal_iff.1 h
  cases e with
  | keep => exact h
  | result v => exact h
  | fault c => exact raiseFault_legal c h
  | bc6h pb | bc7 pb =>
    refine (State.legal_iff _).2 ⟨?_, endDecode_parsed _⟩
    simp [applyTo, legalStatus_withInvalid, hst]

/-! ## Every host event keeps a legal state -/

/-- The outcome, if a next state, is a legal one. -/
def EndsLegal (o : Out) : Prop := ∀ t, o = .next t → t.legal = true

theorem endsLegal_next {s : State} (h : s.legal = true) : EndsLegal (.next s) := by
  rintro t ⟨⟩
  exact h

theorem endsLegal_faultWith (c : Cause) {s : State} (h : s.legal = true) : EndsLegal (faultWith c s) :=
  endsLegal_next (raiseFault_legal c h)

theorem exec_endsLegal (i : Instr) {s : State} (h : s.legal = true) : EndsLegal (exec i s) := by
  obtain ⟨e, -, he⟩ := exec_eq_effect i s
  rw [he]
  exact endsLegal_next (e.applyTo_legal h)

theorem runCommand_endsLegal (w : Word) {s : State} (h : s.legal = true) : EndsLegal (runCommand w s) := by
  cases hd : decodeCommand w with
  | ok i =>
    rw [runCommand_ok w s i hd]
    exact exec_endsLegal i h
  | error err =>
    cases err
    rw [runCommand_error w s hd]
    exact endsLegal_faultWith _ h

theorem writeReg_endsLegal (r : HostReg) (v : Word) {s : State} (h : s.legal = true) :
    EndsLegal (writeReg r v s) := by
  cases r with
  | cmd => exact runCommand_endsLegal v h
  | arg0 | arg1 | blkW k => exact endsLegal_next h
  | status | resLo | resHi | outf k | outbW k => exact endsLegal_faultWith .badAccess h

theorem hostWrite_endsLegal (width : Nat) (off : BitVec 10) (v : Word) {s : State} (h : s.legal = true) :
    EndsLegal (hostWrite width off v s) := by
  cases hf : s.faulted with
  | true =>
    rw [hostWrite_faulted width off v s hf]
    exact endsLegal_next h
  | false =>
    cases hr : accessReg width off with
    | none =>
      rw [hostWrite_bad width off v s hf hr]
      exact endsLegal_faultWith .badAccess h
    | some r =>
      rw [hostWrite_reg width off v s r hf hr]
      exact writeReg_endsLegal r v h

/-- A read outside the map returns 0, and faults unless FAULT is 1 already (R55, R314). -/
theorem hostRead_bad (width : Nat) (off : BitVec 10) (s : State) (hr : accessReg width off = none) :
    hostRead width off s =
      if s.faulted then .next (returnWord 0 s) else faultWith .badAccess (returnWord 0 s) := by
  simp [hostRead, hr]

theorem hostRead_endsLegal (width : Nat) (off : BitVec 10) {s : State} (h : s.legal = true) :
    EndsLegal (hostRead width off s) := by
  cases hr : accessReg width off with
  | some r =>
    rw [hostRead_reg width off s r hr]
    exact endsLegal_next h
  | none =>
    rw [hostRead_bad width off s hr]
    split
    · exact endsLegal_next h
    · exact endsLegal_faultWith .badAccess h

theorem hostEvent_endsLegal (e : HostEvent) {s : State} (h : s.legal = true) : EndsLegal (hostEvent e s) := by
  cases e with
  | write width off v => exact hostWrite_endsLegal width off v h
  | read width off => exact hostRead_endsLegal width off h
  | reset d => exact endsLegal_next (afterReset_legal _ _ _ _)

/-- Settles O55: legality is kept by each host event, and an idle step keeps the whole state. -/
theorem stepsKeepTheStateLegal : Obligations.StepsKeepTheStateLegal := by
  unfold Obligations.StepsKeepTheStateLegal
  intro s t hs ht
  cases hin : s.hostIn with
  | nil =>
    rw [step_idle s hin] at ht
    exact endsLegal_next hs t ht
  | cons e rest =>
    have hev : step s = hostEvent e { s with hostIn := rest } := by
      rw [← step_event s e rest, ← hin]
    rw [hev] at ht
    exact hostEvent_endsLegal (s := { s with hostIn := rest }) e hs t ht

end Sys2Proof.Machine
end

section
/-! PROOFS, 20_memory: the views of BLK (R52, R53), the map of the register window (R55, R56), and how a block or a
word of the opcode table is loaded through it (R79, R80). -/

namespace Sys2Proof.Machine

/-! ## Views of the block -/

theorem readInRange_iff (off len : Nat) :
    readInRange off len = true ↔ 1 ≤ len ∧ len ≤ 64 ∧ off + len ≤ 128 := by
  simp [readInRange, and_assoc]

/-- What RES holds after an in-range RDBITS (R124): no bit of the cursor read is lost. -/
theorem res_of_rdbits {s t : State} {off len : BitVec 7} (h : readInRange off.toNat len.toNat = true)
    (ht : exec (.rdbits off len) s = .next t) : t.res.toNat = memRead s.blk off.toNat len.toNat := by
  rw [exec_rdbits_inRange off len s h] at ht
  obtain rfl := Host.Outcome.next.inj ht
  obtain ⟨-, h64, -⟩ := (readInRange_iff _ _).1 h
  rw [writeRes_res, BitVec.toNat_ofNat]
  exact Nat.mod_eq_of_lt ((memRead_lt _ _ _).trans_le (Nat.pow_le_pow_right (by decide) h64))

theorem rdbits_one_eq_rdbit (s : State) (off : BitVec 7) : exec (.rdbits off 1) s = exec (.rdbit off) s :=
  exec_rdbits_inRange off 1 s ((readInRange_iff _ _).2 ⟨le_rfl, by decide, off.isLt⟩)

/-- Host word `k` of a block is a cursor read (R52, R53). -/
theorem wordOf_eq_memRead (blk : Block) (k : Nat) : wordOf blk k = BitVec.ofNat 32 (memRead blk (32 * k) 32) := by
  rw [memRead_eq_extract, BitVec.ofNat_toNat, BitVec.setWidth_eq]
  rfl

/-- Settles O16: every view is a cursor read of BLK, and a wider read holds the narrower one. -/
theorem blockViewsAgree : Obligations.BlockViewsAgree := by
  unfold Obligations.BlockViewsAgree
  refine ⟨?_, rdbits_one_eq_rdbit, ?_⟩
  · intro s off m n t u hm hmn hn hend ht hu
    rw [res_of_rdbits ((readInRange_iff _ _).2 ⟨by omega, hn, hend⟩) ht,
      res_of_rdbits ((readInRange_iff _ _).2 ⟨hm, by omega, by omega⟩) hu]
    exact (memRead_mod s.blk off.toNat m.toNat n.toNat hmn).symm
  · intro s k t ht
    have hoff : (BitVec.ofNat 7 (32 * k.val)).toNat = 32 * k.val := by
      rw [BitVec.toNat_ofNat]
      omega
    have hend : (BitVec.ofNat 7 (32 * k.val)).toNat + 32 ≤ 128 := by omega
    have hres := res_of_rdbits ((readInRange_iff _ _).2 ⟨by decide, by decide, hend⟩) ht
    rw [← BitVec.ofNat_toNat, hres, hoff]
    exact wordOf_eq_memRead s.blk k

/-! ## The map of the register window -/

theorem regIn_eq_some {n k : Nat} {mk : Fin n → HostReg} {r : HostReg} (h : regIn mk k = some r) :
    ∃ hk : k < n, mk ⟨k, hk⟩ = r := by
  simpa [regIn] using h

/-- The register at a word index lies at four times the index (R56). -/
theorem regOffset_of_regOfIndex {j : Nat} {r : HostReg} (h : regOfIndex j = some r) : regOffset r = 4 * j := by
  unfold regOfIndex at h
  split_ifs at h
  iterate 6
    next =>
      obtain rfl := Option.some.inj h
      simp only [regOffset]
      omega
  all_goals
    obtain ⟨hk, rfl⟩ := regIn_eq_some h
    simp only [regOffset]
    omega

/-- An access that reaches a register is 32 bits wide and at that register's offset (R55). -/
theorem regOffset_of_accessReg {width : Nat} {off : BitVec 10} {r : HostReg} (h : accessReg width off = some r) :
    width = 32 ∧ regOffset r = off.toNat := by
  obtain ⟨⟨hw, hal⟩, hr⟩ : (width = 32 ∧ off.toNat % 4 = 0) ∧ regOfIndex (off.toNat / 4) = some r := by
    simpa [accessReg] using h
  have hoff := regOffset_of_regOfIndex hr
  exact ⟨hw, by omega⟩

/-- The offsets R56 maps are those of the registers. -/
theorem mappedOffset_iff (o : Nat) : MappedOffset o ↔ ∃ r, regOffset r = o := by
  constructor
  · rintro ⟨hal, hlow | hblk | houtf | houtb⟩
    · obtain h | h | h | h | h | h : o = 0 ∨ o = 4 ∨ o = 8 ∨ o = 12 ∨ o = 16 ∨ o = 20 := by omega
      · exact ⟨.cmd, h.symm⟩
      · exact ⟨.status, h.symm⟩
      · exact ⟨.arg0, h.symm⟩
      · exact ⟨.arg1, h.symm⟩
      · exact ⟨.resLo, h.symm⟩
      · exact ⟨.resHi, h.symm⟩
    · exact ⟨.blkW ⟨(o - 0x020) / 4, by omega⟩, by simp only [regOffset]; omega⟩
    · exact ⟨.outf ⟨(o - 0x100) / 4, by omega⟩, by simp only [regOffset]; omega⟩
    · exact ⟨.outbW ⟨(o - 0x200) / 4, by omega⟩, by simp only [regOffset]; omega⟩
  · rintro ⟨r, rfl⟩
    cases r with
    | cmd | status | arg0 | arg1 | resLo | resHi => exact ⟨rfl, .inl (by decide)⟩
    | blkW k | outf k | outbW k => simp only [MappedOffset, regOffset]; omega

/-- A register's offset is marked RW exactly when the host may write the register (R28, R56). -/
theorem writableOffset_regOffset (r : HostReg) : WritableOffset (regOffset r) ↔ hostWritable r = true := by
  cases r with
  | cmd | status | arg0 | arg1 | resLo | resHi => simp [WritableOffset, regOffset, hostWritable]
  | blkW k => exact iff_of_true (by simp only [WritableOffset, regOffset]; omega) rfl
  | outf k | outbW k => exact iff_of_false (by simp only [WritableOffset, regOffset]; omega) Bool.false_ne_true

theorem accessReg_of_mapped {off : BitVec 10} (h : MappedOffset off.toNat) :
    ∃ r, accessReg 32 off = some r ∧ regOffset r = off.toNat := by
  obtain ⟨r, hr⟩ := (mappedOffset_iff _).1 h
  refine ⟨r, ?_, hr⟩
  have hoff : BitVec.ofNat 10 (regOffset r) = off := by rw [hr, BitVec.ofNat_toNat, BitVec.setWidth_eq]
  rw [← hoff, accessReg_regOffset]

/-- The accesses that R55 calls bad are those that reach no register. -/
theorem accessReg_eq_none {width : Nat} {off : BitVec 10} (h : width ≠ 32 ∨ ¬ MappedOffset off.toNat) :
    accessReg width off = none := by
  refine Option.eq_none_iff_forall_ne_some.2 fun r hr => ?_
  obtain ⟨hw, hoff⟩ := regOffset_of_accessReg hr
  exact h.elim (· hw) (· ((mappedOffset_iff _).2 ⟨r, hoff⟩))

/-- A write to a read-only register is a bad access (R55). -/
theorem writeReg_readOnly {r : HostReg} (v : Word) (s : State) (h : hostWritable r = false) :
    writeReg r v s = faultWith .badAccess s := by
  cases r with
  | cmd | arg0 | arg1 | blkW k => cases h
  | status | resLo | resHi | outf k | outbW k => rfl

/-- Settles O47: a bad access reaches no register, and a write outside R56's RW column reaches a read-only one. -/
theorem badAccessesFault : Obligations.BadAccessesFault := by
  unfold Obligations.BadAccessesFault
  intro s width off v rest h
  have h' : State.faulted { s with hostIn := rest } = false := h
  refine ⟨fun hbad => ⟨?_, ?_⟩, fun hmap hro => ?_⟩
  · rw [step_event, hostEvent, hostWrite_bad _ _ _ _ h' (accessReg_eq_none hbad)]
    exact faultWith_faults .badAccess _
  · rw [step_event, hostEvent, hostRead_bad _ _ _ (accessReg_eq_none hbad), h', if_neg Bool.false_ne_true]
    exact faultWith_faults .badAccess _
  · obtain ⟨r, hr, hoff⟩ := accessReg_of_mapped hmap
    have hw : hostWritable r = false := by
      rw [← Bool.not_eq_true, ← writableOffset_regOffset, hoff]
      exact hro
    rw [step_event, hostEvent, hostWrite_reg _ _ _ _ r h' hr, writeReg_readOnly v _ hw]
    exact faultWith_faults .badAccess _

/-! ## Loading a block -/

/-- The block after its words `ks` are replaced by those of `x`. -/
def takeWords (x : Block) (ks : List (Fin 4)) (blk : Block) : Block :=
  ks.foldl (fun b k => setBlockWord b k (wordOf x k)) blk

theorem takeWords_cons (x : Block) (k : Fin 4) (ks : List (Fin 4)) (blk : Block) :
    takeWords x (k :: ks) blk = takeWords x ks (setBlockWord blk k (wordOf x k)) := rfl

/-- Bit `j` of a block is bit `j - 32k` of its word `k` (R52). -/
theorem wordOf_getLsbD (x : Block) {j k : Nat} (hj : 32 * k ≤ j ∧ j < 32 * k + 32) :
    (wordOf x k).getLsbD (j - 32 * k) = x.getLsbD j := by
  rw [wordOf, BitVec.getLsbD_extractLsb', decide_eq_true (by omega), Bool.true_and, Nat.add_sub_cancel' hj.1]

/-- A replaced word holds the bits of `x`, and every other word is kept (R52). -/
theorem takeWords_getLsbD (x : Block) (ks : List (Fin 4)) (blk : Block) (k : Fin 4) {j : Nat}
    (hj : 32 * k.val ≤ j ∧ j < 32 * k.val + 32) :
    (takeWords x ks blk).getLsbD j = if k ∈ ks then x.getLsbD j else blk.getLsbD j := by
  have hj128 : j < 128 := by omega
  induction ks generalizing blk with
  | nil => rfl
  | cons k' ks ih =>
    rw [takeWords_cons, ih, setBlockWord_getLsbD _ _ _ _ hj128]
    by_cases hk : k = k'
    · subst hk
      simp [hj, wordOf_getLsbD x hj]
    · have hne : ¬ (32 * k'.val ≤ j ∧ j < 32 * k'.val + 32) := by omega
      simp [hk, hne]

/-- Taking all four words of `x` gives `x`. -/
theorem takeWords_all (x blk : Block) : takeWords x [0, 1, 2, 3] blk = x := by
  have hmem : ∀ k : Fin 4, k ∈ [0, 1, 2, 3] := by decide
  apply BitVec.eq_of_getLsbD_eq
  intro j hj
  rw [takeWords_getLsbD x _ blk ⟨j / 32, by omega⟩ (by simp only; omega), if_pos (hmem _)]

theorem run_succ_of_step {s t : State} (n : Nat) (h : step s = .next t) :
    Host.Core.run Sys2Proof.core (n + 1) s = Host.Core.run Sys2Proof.core n t := by
  have hcore : Sys2Proof.core.step s = .next t := h
  simp only [Host.Core.run, hcore]

theorem step_write_blkW (k : Fin 4) (v : Word) (s : State) (rest : List HostEvent) (h : s.faulted = false) :
    step { s with hostIn := regWrite (.blkW k) v :: rest } =
      .next { s with hostIn := rest, blk := setBlockWord s.blk k v } :=
  step_write_reg (.blkW k) v s rest h

/-- Host writes of the words `ks` of `x` to BLK, one step each, replace those words and nothing else (R57). -/
theorem run_blockWrites (x : Block) (ks : List (Fin 4)) (s : State) (rest : List HostEvent)
    (h : s.faulted = false) :
    Host.Core.run Sys2Proof.core ks.length
        { s with hostIn := ks.map (fun k => regWrite (.blkW k) (wordOf x k)) ++ rest } =
      .next { s with hostIn := rest, blk := takeWords x ks s.blk } := by
  induction ks generalizing s with
  | nil => rfl
  | cons k ks ih =>
    have hstep := step_write_blkW k (wordOf x k) s
      (ks.map (fun k => regWrite (.blkW k) (wordOf x k)) ++ rest) h
    exact (run_succ_of_step ks.length hstep).trans
      (ih { s with blk := setBlockWord s.blk k (wordOf x k) } h)

/-- A block is the concatenation of its four words (R52). -/
theorem block_eq_words (x : Block) : x = wordOf x 3 ++ wordOf x 2 ++ wordOf x 1 ++ wordOf x 0 := by
  unfold wordOf
  rw [BitVec.extractLsb'_append_extractLsb'_eq_extractLsb' (by rfl),
    BitVec.extractLsb'_append_extractLsb'_eq_extractLsb' (by rfl),
    BitVec.extractLsb'_append_extractLsb'_eq_extractLsb' (by rfl)]
  exact BitVec.extractLsb'_eq_self.symm

/-- Settles O50: the four writes replace all four words of BLK. -/
theorem fourWritesLoadTheBlock : Obligations.FourWritesLoadTheBlock := by
  unfold Obligations.FourWritesLoadTheBlock
  intro s x rest h
  refine ⟨?_, block_eq_words x⟩
  have hrun := run_blockWrites x [0, 1, 2, 3] s rest h
  rw [takeWords_all] at hrun
  exact hrun

/-! ## A word of the opcode table -/

theorem step_cmdWrite {w : Word} {i : Instr} (s : State) (rest : List HostEvent) (h : s.faulted = false)
    (hi : decodeCommand w = .ok i) :
    step { s with hostIn := cmdWrite w :: rest } = exec i { s with cmd := w, hostIn := rest } :=
  (step_write_reg .cmd w s rest h).trans (runCommand_ok w _ i hi)

/-- A BC6H selector has 2 bits, 0 or 1, or 5 bits that end in 2 or 3 (R81). -/
theorem bc6hSelector_range (blk : Block) :
    (bc6hSelector blk).1 < 2 ∨ (bc6hSelector blk).1 < 32 ∧ 2 ≤ (bc6hSelector blk).1 % 4 := by
  unfold bc6hSelector
  split
  case isTrue h => exact .inl h
  case isFalse h =>
    have hlow : memRead blk 0 5 % 2 ^ 2 = memRead blk 0 2 := memRead_mod blk 0 2 5 (by decide)
    exact .inr ⟨memRead_lt blk 0 5, hlow ▸ Nat.le_of_not_lt h⟩

/-- A selector that names no mode is the number of its reserved instruction (R82). -/
theorem bc6hReservedId_reservedOf {blk : Block} (h : bc6hModeOfId (bc6hSelector blk).1 = none) :
    bc6hReservedId (bc6hReservedOf (bc6hSelector blk).1) = (bc6hSelector blk).1 := by
  have hall : ∀ k : Fin 32, (k.val < 2 ∨ 2 ≤ k.val % 4) → bc6hModeOfId k = none →
      bc6hReservedId (bc6hReservedOf k) = k := by decide
  obtain hlow | ⟨hlt, hend⟩ := bc6hSelector_range blk
  · exact hall ⟨_, hlow.trans (by decide)⟩ (.inl hlow) h
  · exact hall ⟨_, hlt⟩ (.inr hend) h

/-- The BC6H instruction that BLK decodes to runs as the decode command of CMD's signedness (R80). -/
theorem exec_decodeBc6hBlock (s : State) :
    exec (decodeBc6hBlock s.blk) s = decodeBlkBc6h (blockSigned s) s := by
  cases h : bc6hModeOfId (bc6hSelector s.blk).1 with
  | some m =>
    simp only [decodeBc6hBlock, h]
    rw [exec_ofBc6h, decodeBlkBc6h_valid _ s m h]
  | none =>
    simp only [decodeBc6hBlock, h]
    rw [exec_ofBc6hReserved, decodeBlkBc6h_invalid _ s h, bc6hReservedId_reservedOf h]

/-- The BC7 instruction that BLK decodes to runs as DECBC7 (R80). -/
theorem exec_decodeBc7Block (s : State) : exec (decodeBc7Block s.blk) s = exec .decbc7 s := by
  cases h : bc7ModeOfId (bc7Selector s.blk) with
  | some m =>
    simp only [decodeBc7Block, h]
    rw [exec_ofBc7, exec_decbc7_valid s m h]
  | none =>
    simp only [decodeBc7Block, h]
    rw [exec_bc7Reserved, exec_decbc7_invalid s h]

/-- The next step runs what the placed encoding decodes to (R50, R80). -/
theorem step_loadEncoded (s : State) (x : Encoded) (i : Instr) (h : s.faulted = false) (hi : decode x = .ok i) :
    ∃ c : Word, step (loadEncoded x s) = exec i { loadEncoded x s with hostIn := s.hostIn, cmd := c } := by
  cases x with
  | command w => exact ⟨w, step_cmdWrite s s.hostIn h hi⟩
  | bc6hBlock b =>
    obtain rfl := Except.ok.inj hi
    exact ⟨0x3, (step_cmdWrite (i := .decbc6u) { s with blk := b } s.hostIn h rfl).trans
      (exec_decodeBc6hBlock { s with blk := b, cmd := 0x3 }).symm⟩
  | bc7Block b =>
    obtain rfl := Except.ok.inj hi
    exact ⟨0x5, (step_cmdWrite (i := .decbc7) { s with blk := b } s.hostIn h rfl).trans
      (exec_decodeBc7Block { s with blk := b, cmd := 0x5 }).symm⟩

theorem decode_of_decodeTableWord {nbits w : Nat} {i : Instr} (h : decodeTableWord nbits w = some i) :
    decode (tableEncoding nbits w) = .ok i := by
  unfold decodeTableWord at h
  cases hd : decode (tableEncoding nbits w) with
  | ok j =>
    rw [hd] at h
    exact congrArg Except.ok (Option.some.inj h)
  | error e =>
    rw [hd] at h
    cases h

/-- Settles O53: the table word is placed in the space the decoder reads it in. -/
theorem placedWordRunsNext : Obligations.PlacedWordRunsNext := by
  unfold Obligations.PlacedWordRunsNext
  intro s nbits w i h hi
  exact step_loadEncoded s (tableEncoding nbits w) i h (decode_of_decodeTableWord hi)

end Sys2Proof.Machine
end

section
/-! PROOFS, 30_encoding: command words. The decoder and the encoder of the 32-bit word undo one another (R70 to R75),
and what a CMD write of each kind of word does (R73, R74, R312). -/

namespace Sys2Proof.Machine

open Laws.OpcodeBits (place_getLsbD)

/-! ## The fields of a word -/

/-- The bits `lo .. lo + n - 1` of a word. -/
def bitsMask (lo n : Nat) : Word := place (BitVec.allOnes n) lo

/-- A field read where it was placed is the field. -/
@[simp] theorem extract_place_same {n lo : Nat} (x : BitVec n) (h : lo + n ≤ 32) :
    (place x lo).extractLsb' lo n = x := by
  apply BitVec.eq_of_getLsbD_eq
  intro j hj
  rw [BitVec.getLsbD_extractLsb', place_getLsbD x lo (lo + j) (by omega)]
  simp [hj]

/-- A placed field is 0 where another field is read. -/
@[simp] theorem extract_place_other {n lo lo' n' : Nat} (x : BitVec n) (h : lo' + n' ≤ lo ∨ lo + n ≤ lo')
    (h' : lo' + n' ≤ 32) : (place x lo).extractLsb' lo' n' = 0 := by
  apply BitVec.eq_of_getLsbD_eq
  intro j hj
  rw [BitVec.getLsbD_extractLsb', place_getLsbD x lo (lo' + j) (by omega)]
  rcases h with h | h
  · simp [show ¬ lo ≤ lo' + j by omega]
  · simp [BitVec.getLsbD_of_ge x (lo' + j - lo) (by omega)]

/-- A field read and placed again is the word's bits there. -/
theorem place_extract (w : Word) (lo n : Nat) : place (w.extractLsb' lo n) lo = w &&& bitsMask lo n := by
  apply BitVec.eq_of_getLsbD_eq
  intro j hj
  rw [bitsMask, BitVec.getLsbD_and, place_getLsbD _ _ _ hj, place_getLsbD _ _ _ hj, BitVec.getLsbD_extractLsb',
    BitVec.getLsbD_allOnes]
  by_cases hlo : lo ≤ j
  · rw [Nat.add_sub_cancel' hlo, Bool.and_comm (w.getLsbD j), Bool.and_assoc]
  · simp [hlo]

theorem place_zero (n lo : Nat) : place (0 : BitVec n) lo = 0 := by simp [place]

/-- The bits of a field are all 0 exactly when the field is. -/
theorem and_bitsMask_eq_zero {w : Word} {lo n : Nat} (h : lo + n ≤ 32) :
    w &&& bitsMask lo n = 0 ↔ w.extractLsb' lo n = 0 := by
  rw [← place_extract]
  constructor
  · intro hp
    rw [← extract_place_same (w.extractLsb' lo n) h, hp]
    simp
  · intro he
    rw [he, place_zero]

/-! ## The opcode and the reserved bits -/

theorem opcode_lt (w : Word) : opcode w < 16 := (field w 3 0).isLt

/-- A reserved mask clears a word exactly when the word's reserved field is 0 (R71, R74). -/
theorem and_reservedMask_eq_zero {op lo n : Nat} (w : Word) (hm : reservedMask op = bitsMask lo n)
    (h : lo + n ≤ 32) : w &&& reservedMask op = 0 ↔ w.extractLsb' lo n = 0 := by
  rw [hm, and_bitsMask_eq_zero h]

/-- The reserved opcodes reserve no bit (R73). -/
theorem reservedMask_of_ge {op : Nat} (h : 12 ≤ op) : reservedMask op = 0 := by
  obtain ⟨k, rfl⟩ := Nat.exists_eq_add_of_le' h
  rfl

theorem decodeCommand_eq_ok {w : Word} {i : Instr} :
    decodeCommand w = .ok i ↔ w &&& reservedMask (opcode w) = 0 ∧ commandOf w = i := by
  unfold decodeCommand
  split
  case isTrue h => simp [h]
  case isFalse h => exact iff_of_false nofun fun hi => h hi.1

theorem decodeCommand_eq_error {w : Word} :
    decodeCommand w = .error .reservedField ↔ w &&& reservedMask (opcode w) ≠ 0 := by
  unfold decodeCommand
  split
  case isTrue h => exact iff_of_false nofun fun hi => hi h
  case isFalse h => exact iff_of_true rfl h

/-! ## The instruction of each opcode (R72, R75) -/

section
variable {w : Word}

theorem commandOf_nop (h : opcode w = 0x0) : commandOf w = .nop := by
  simp only [commandOf, h]

theorem commandOf_rdbit (h : opcode w = 0x1) : commandOf w = .rdbit (w.extractLsb' 4 7) := by
  simp only [commandOf, h]; rfl

theorem commandOf_rdbits (h : opcode w = 0x2) :
    commandOf w = .rdbits (w.extractLsb' 4 7) (w.extractLsb' 11 7) := by
  simp only [commandOf, h]; rfl

theorem commandOf_decbc6u (h : opcode w = 0x3) : commandOf w = .decbc6u := by
  simp only [commandOf, h]

theorem commandOf_decbc6s (h : opcode w = 0x4) : commandOf w = .decbc6s := by
  simp only [commandOf, h]

theorem commandOf_decbc7 (h : opcode w = 0x5) : commandOf w = .decbc7 := by
  simp only [commandOf, h]

theorem commandOf_modeq (h : opcode w = 0x6) : commandOf w = .modeq (codecOf (w.extractLsb' 4 1)) := by
  simp only [commandOf, h]; rfl

theorem commandOf_partq (h : opcode w = 0x7) :
    commandOf w = .partq (w.extractLsb' 4 2) (w.extractLsb' 6 6) (w.extractLsb' 12 4) := by
  simp only [commandOf, h]; rfl

theorem commandOf_interp (h : opcode w = 0x8) :
    commandOf w = .interp (w.extractLsb' 4 4) (w.extractLsb' 8 3) := by
  simp only [commandOf, h]; rfl

theorem commandOf_unq6 (h : opcode w = 0x9) :
    commandOf w = .unq6 (w.extractLsb' 4 5) (flagOf (w.extractLsb' 9 1)) := by
  simp only [commandOf, h]; rfl

theorem commandOf_finish (h : opcode w = 0xA) : commandOf w = .finish (flagOf (w.extractLsb' 4 1)) := by
  simp only [commandOf, h]; rfl

theorem commandOf_expand7 (h : opcode w = 0xB) :
    commandOf w = .expand7 (w.extractLsb' 4 4) (w.extractLsb' 8 8) := by
  simp only [commandOf, h]; rfl

theorem commandOf_reservedC (h : opcode w = 0xC) : commandOf w = .reservedC (w.extractLsb' 4 28) := by
  simp only [commandOf, h]; rfl

theorem commandOf_reservedD (h : opcode w = 0xD) : commandOf w = .reservedD (w.extractLsb' 4 28) := by
  simp only [commandOf, h]; rfl

theorem commandOf_reservedE (h : opcode w = 0xE) : commandOf w = .reservedE (w.extractLsb' 4 28) := by
  simp only [commandOf, h]; rfl

theorem commandOf_reservedF (h : opcode w = 0xF) : commandOf w = .reservedF (w.extractLsb' 4 28) := by
  simp only [commandOf, h]; rfl

end

@[simp] theorem codecOf_codecBit (c : Codec) : codecOf (codecBit c) = c := by cases c <;> rfl

@[simp] theorem codecBit_codecOf (b : BitVec 1) : codecBit (codecOf b) = b := by revert b; decide

@[simp] theorem flagOf_flagBit (b : Bool) : flagOf (flagBit b) = b := by cases b <;> rfl

@[simp] theorem flagBit_flagOf (b : BitVec 1) : flagBit (flagOf b) = b := by revert b; decide

/-! ## Encoding and decoding a command -/

/-! ## The word of a command decodes to the command -/

/-- A word decodes to the instruction of its opcode `op` when the reserved field of that format is 0. -/
theorem decodeCommand_of_fields {w : Word} {i : Instr} (op : BitVec 4) (lo n : Nat)
    (hm : reservedMask op.toNat = bitsMask lo n) (h : lo + n ≤ 32) (hop : w.extractLsb' 0 4 = op)
    (hres : w.extractLsb' lo n = 0) (hi : opcode w = op.toNat → commandOf w = i) : decodeCommand w = .ok i := by
  have hop' : opcode w = op.toNat := congrArg BitVec.toNat hop
  refine decodeCommand_eq_ok.2 ⟨?_, hi hop'⟩
  rw [hop']
  exact (and_reservedMask_eq_zero w hm h).2 hres

theorem decodeCommand_rdbit (off : BitVec 7) :
    decodeCommand (0x1 ||| place off 4) = .ok (.rdbit off) := by
  refine decodeCommand_of_fields 0x1 11 21 rfl le_rfl (by simp [BitVec.extractLsb'_or])
    (by simp [BitVec.extractLsb'_or]) fun hop => ?_
  rw [commandOf_rdbit hop]
  simp [BitVec.extractLsb'_or]

theorem decodeCommand_rdbits (off len : BitVec 7) :
    decodeCommand (0x2 ||| place off 4 ||| place len 11) = .ok (.rdbits off len) := by
  refine decodeCommand_of_fields 0x2 18 14 rfl le_rfl (by simp [BitVec.extractLsb'_or])
    (by simp [BitVec.extractLsb'_or]) fun hop => ?_
  rw [commandOf_rdbits hop]
  simp [BitVec.extractLsb'_or]

theorem decodeCommand_modeq (c : Codec) :
    decodeCommand (0x6 ||| place (codecBit c) 4) = .ok (.modeq c) := by
  refine decodeCommand_of_fields 0x6 5 27 rfl le_rfl (by simp [BitVec.extractLsb'_or])
    (by simp [BitVec.extractLsb'_or]) fun hop => ?_
  rw [commandOf_modeq hop]
  simp [BitVec.extractLsb'_or]

theorem decodeCommand_partq (ns : BitVec 2) (p : BitVec 6) (k : BitVec 4) :
    decodeCommand (0x7 ||| place ns 4 ||| place p 6 ||| place k 12) = .ok (.partq ns p k) := by
  refine decodeCommand_of_fields 0x7 16 16 rfl le_rfl (by simp [BitVec.extractLsb'_or])
    (by simp [BitVec.extractLsb'_or]) fun hop => ?_
  rw [commandOf_partq hop]
  simp [BitVec.extractLsb'_or]

theorem decodeCommand_interp (idx : BitVec 4) (prec : BitVec 3) :
    decodeCommand (0x8 ||| place idx 4 ||| place prec 8) = .ok (.interp idx prec) := by
  refine decodeCommand_of_fields 0x8 11 21 rfl le_rfl (by simp [BitVec.extractLsb'_or])
    (by simp [BitVec.extractLsb'_or]) fun hop => ?_
  rw [commandOf_interp hop]
  simp [BitVec.extractLsb'_or]

theorem decodeCommand_unq6 (n : BitVec 5) (sg : Bool) :
    decodeCommand (0x9 ||| place n 4 ||| place (flagBit sg) 9) = .ok (.unq6 n sg) := by
  refine decodeCommand_of_fields 0x9 10 22 rfl le_rfl (by simp [BitVec.extractLsb'_or])
    (by simp [BitVec.extractLsb'_or]) fun hop => ?_
  rw [commandOf_unq6 hop]
  simp [BitVec.extractLsb'_or]

theorem decodeCommand_finish (sg : Bool) :
    decodeCommand (0xA ||| place (flagBit sg) 4) = .ok (.finish sg) := by
  refine decodeCommand_of_fields 0xA 5 27 rfl le_rfl (by simp [BitVec.extractLsb'_or])
    (by simp [BitVec.extractLsb'_or]) fun hop => ?_
  rw [commandOf_finish hop]
  simp [BitVec.extractLsb'_or]

theorem decodeCommand_expand7 (n : BitVec 4) (v : BitVec 8) :
    decodeCommand (0xB ||| place n 4 ||| place v 8) = .ok (.expand7 n v) := by
  refine decodeCommand_of_fields 0xB 16 16 rfl le_rfl (by simp [BitVec.extractLsb'_or])
    (by simp [BitVec.extractLsb'_or]) fun hop => ?_
  rw [commandOf_expand7 hop]
  simp [BitVec.extractLsb'_or]

theorem decodeCommand_reservedC (rest : BitVec 28) :
    decodeCommand (0xC ||| place rest 4) = .ok (.reservedC rest) := by
  refine decodeCommand_of_fields 0xC 32 0 rfl le_rfl (by simp [BitVec.extractLsb'_or])
    (by simp [BitVec.extractLsb'_or]) fun hop => ?_
  rw [commandOf_reservedC hop]
  simp [BitVec.extractLsb'_or]

theorem decodeCommand_reservedD (rest : BitVec 28) :
    decodeCommand (0xD ||| place rest 4) = .ok (.reservedD rest) := by
  refine decodeCommand_of_fields 0xD 32 0 rfl le_rfl (by simp [BitVec.extractLsb'_or])
    (by simp [BitVec.extractLsb'_or]) fun hop => ?_
  rw [commandOf_reservedD hop]
  simp [BitVec.extractLsb'_or]

theorem decodeCommand_reservedE (rest : BitVec 28) :
    decodeCommand (0xE ||| place rest 4) = .ok (.reservedE rest) := by
  refine decodeCommand_of_fields 0xE 32 0 rfl le_rfl (by simp [BitVec.extractLsb'_or])
    (by simp [BitVec.extractLsb'_or]) fun hop => ?_
  rw [commandOf_reservedE hop]
  simp [BitVec.extractLsb'_or]

theorem decodeCommand_reservedF (rest : BitVec 28) :
    decodeCommand (0xF ||| place rest 4) = .ok (.reservedF rest) := by
  refine decodeCommand_of_fields 0xF 32 0 rfl le_rfl (by simp [BitVec.extractLsb'_or])
    (by simp [BitVec.extractLsb'_or]) fun hop => ?_
  rw [commandOf_reservedF hop]
  simp [BitVec.extractLsb'_or]

/-- Settles O2: each field is read where the encoder placed it, and the opcode and the reserved bits are as the
format has them. -/
theorem commandsSurviveEncoding : Obligations.CommandsSurviveEncoding := by
  unfold Obligations.CommandsSurviveEncoding
  intro i w h
  cases i with
  | nop | decbc6u | decbc6s | decbc7 => exact Encoded.command.inj h ▸ rfl
  | rdbit off => exact Encoded.command.inj h ▸ decodeCommand_rdbit off
  | rdbits off len => exact Encoded.command.inj h ▸ decodeCommand_rdbits off len
  | modeq c => exact Encoded.command.inj h ▸ decodeCommand_modeq c
  | partq ns p k => exact Encoded.command.inj h ▸ decodeCommand_partq ns p k
  | interp idx prec => exact Encoded.command.inj h ▸ decodeCommand_interp idx prec
  | unq6 n sg => exact Encoded.command.inj h ▸ decodeCommand_unq6 n sg
  | finish sg => exact Encoded.command.inj h ▸ decodeCommand_finish sg
  | expand7 n v => exact Encoded.command.inj h ▸ decodeCommand_expand7 n v
  | reservedC rest => exact Encoded.command.inj h ▸ decodeCommand_reservedC rest
  | reservedD rest => exact Encoded.command.inj h ▸ decodeCommand_reservedD rest
  | reservedE rest => exact Encoded.command.inj h ▸ decodeCommand_reservedE rest
  | reservedF rest => exact Encoded.command.inj h ▸ decodeCommand_reservedF rest
  | _ => cases h

/-! ## A word that is not rejected is the word of its command -/

/-- A word is its opcode, its operand bits `m` and its reserved bits, which are 0 (R71). -/
theorem op_or_operands {w k : Word} (m : Word) (hop : opcode w = k.toNat) (hres : w &&& reservedMask k.toNat = 0)
    (hm : bitsMask 0 4 ||| m ||| reservedMask k.toNat = BitVec.allOnes 32) : k ||| w &&& m = w := by
  have hk : k = w &&& bitsMask 0 4 := by
    rw [← place_extract]
    apply BitVec.eq_of_toNat_eq
    rw [place, BitVec.shiftLeft_zero, BitVec.toNat_setWidth_of_le (by decide)]
    exact hop.symm
  calc k ||| w &&& m = w &&& bitsMask 0 4 ||| w &&& m ||| w &&& reservedMask k.toNat := by
        rw [← hk, hres]; exact BitVec.or_zero.symm
    _ = w &&& BitVec.allOnes 32 := by rw [← BitVec.and_or_distrib_left, ← BitVec.and_or_distrib_left, hm]
    _ = w := BitVec.and_allOnes

/-- A word of a format without operands is its opcode. -/
theorem eq_of_opcode {w k : Word} (hop : opcode w = k.toNat) (hres : w &&& reservedMask k.toNat = 0)
    (hm : bitsMask 0 4 ||| reservedMask k.toNat = BitVec.allOnes 32) : k = w := by
  have h := op_or_operands 0 hop hres (by rw [← hm]; simp)
  simpa using h

/-- A word whose reserved bits are 0 is the word of its instruction: the encoder puts back each field that the
decoder read. -/
theorem encode_commandOf {w : Word} (h : w &&& reservedMask (opcode w) = 0) :
    encode (commandOf w) = .command w := by
  have hlt := opcode_lt w
  interval_cases hop : opcode w
  · rw [commandOf_nop hop, encode, eq_of_opcode (k := 0x0) hop h rfl]
  · rw [commandOf_rdbit hop, encode, place_extract, op_or_operands (k := 0x1) _ hop h rfl]
  · rw [commandOf_rdbits hop, encode, place_extract, place_extract, BitVec.or_assoc, ← BitVec.and_or_distrib_left,
      op_or_operands (k := 0x2) _ hop h rfl]
  · rw [commandOf_decbc6u hop, encode, eq_of_opcode (k := 0x3) hop h rfl]
  · rw [commandOf_decbc6s hop, encode, eq_of_opcode (k := 0x4) hop h rfl]
  · rw [commandOf_decbc7 hop, encode, eq_of_opcode (k := 0x5) hop h rfl]
  · rw [commandOf_modeq hop, encode, codecBit_codecOf, place_extract, op_or_operands (k := 0x6) _ hop h rfl]
  · rw [commandOf_partq hop, encode, place_extract, place_extract, place_extract, BitVec.or_assoc, BitVec.or_assoc,
      ← BitVec.and_or_distrib_left, ← BitVec.and_or_distrib_left, op_or_operands (k := 0x7) _ hop h rfl]
  · rw [commandOf_interp hop, encode, place_extract, place_extract, BitVec.or_assoc, ← BitVec.and_or_distrib_left,
      op_or_operands (k := 0x8) _ hop h rfl]
  · rw [commandOf_unq6 hop, encode, flagBit_flagOf, place_extract, place_extract, BitVec.or_assoc,
      ← BitVec.and_or_distrib_left, op_or_operands (k := 0x9) _ hop h rfl]
  · rw [commandOf_finish hop, encode, flagBit_flagOf, place_extract, op_or_operands (k := 0xA) _ hop h rfl]
  · rw [commandOf_expand7 hop, encode, place_extract, place_extract, BitVec.or_assoc, ← BitVec.and_or_distrib_left,
      op_or_operands (k := 0xB) _ hop h rfl]
  · rw [commandOf_reservedC hop, encode, place_extract, op_or_operands (k := 0xC) _ hop h rfl]
  · rw [commandOf_reservedD hop, encode, place_extract, op_or_operands (k := 0xD) _ hop h rfl]
  · rw [commandOf_reservedE hop, encode, place_extract, op_or_operands (k := 0xE) _ hop h rfl]
  · rw [commandOf_reservedF hop, encode, place_extract, op_or_operands (k := 0xF) _ hop h rfl]

/-! ## CMD writes -/

/-- Settles O52: the CMD write stores its word and runs what the word decodes to. -/
theorem stepRunsTheDecodedInstruction : Obligations.StepRunsTheDecodedInstruction := by
  unfold Obligations.StepRunsTheDecodedInstruction
  exact ⟨fun s _ _ rest h hi => step_cmdWrite s rest h hi, step_idle⟩

/-- A CMD write of a rejected word stores it and raises RESERVED_FIELD (R74). -/
theorem step_cmdWrite_rejected {w : Word} (s : State) (rest : List HostEvent) (h : s.faulted = false)
    (hw : decodeCommand w = .error .reservedField) :
    Faults (step { s with hostIn := .write 32 0 w :: rest }) { s with cmd := w, hostIn := rest } 2 := by
  have hstep : step { s with hostIn := .write 32 0 w :: rest } =
      faultWith .reservedField { s with cmd := w, hostIn := rest } :=
    (step_write_reg .cmd w s rest h).trans (runCommand_error w _ hw)
  rw [hstep]
  exact faultWith_faults .reservedField _

/-- The instruction of a reserved opcode raises BAD_OPCODE, whatever the other bits of its word are (R73). -/
theorem exec_commandOf_reserved {w : Word} (h : 12 ≤ opcode w) (s : State) :
    exec (commandOf w) s = faultWith .badOpcode s := by
  have hlt := opcode_lt w
  interval_cases hop : opcode w
  · rw [commandOf_reservedC hop]; rfl
  · rw [commandOf_reservedD hop]; rfl
  · rw [commandOf_reservedE hop]; rfl
  · rw [commandOf_reservedF hop]; rfl

theorem decodeCommand_of_ge {w : Word} (h : 12 ≤ opcode w) : decodeCommand w = .ok (commandOf w) := by
  refine decodeCommand_eq_ok.2 ⟨?_, rfl⟩
  rw [reservedMask_of_ge h]
  exact BitVec.and_zero

theorem step_cmdWrite_reservedOpcode {w : Word} (s : State) (rest : List HostEvent) (h : s.faulted = false)
    (hw : 12 ≤ opcode w) :
    Faults (step { s with hostIn := .write 32 0 w :: rest }) { s with cmd := w, hostIn := rest } 1 := by
  have hstep : step { s with hostIn := .write 32 0 w :: rest } =
      faultWith .badOpcode { s with cmd := w, hostIn := rest } :=
    (step_cmdWrite s rest h (decodeCommand_of_ge hw)).trans (exec_commandOf_reserved hw _)
  rw [hstep]
  exact faultWith_faults .badOpcode _

/-- Settles O23: the four reserved opcodes have one meaning, the fault entry. -/
theorem reservedOpcodesRaiseBadOpcode : Obligations.ReservedOpcodesRaiseBadOpcode := by
  unfold Obligations.ReservedOpcodesRaiseBadOpcode
  refine ⟨fun s _ => ?_, fun s _ rest => step_cmdWrite_reservedOpcode s rest⟩
  exact ⟨faultWith_faults .badOpcode s, faultWith_faults .badOpcode s, faultWith_faults .badOpcode s,
    faultWith_faults .badOpcode s⟩

/-- A word of a format is rejected exactly when its reserved field is not 0 (R74). -/
theorem rejected_iff {w : Word} {op lo n : Nat} (hop : opcode w = op) (hm : reservedMask op = bitsMask lo n)
    (h : lo + n ≤ 32) : decodeCommand w = .error .reservedField ↔ w.extractLsb' lo n ≠ 0 := by
  rw [decodeCommand_eq_error, hop, Ne, and_reservedMask_eq_zero w hm h]

/-- Settles O6: the reserved field of each format is the one R71 lists. -/
theorem reservedBitsAreRejected : Obligations.ReservedBitsAreRejected := by
  unfold Obligations.ReservedBitsAreRejected
  refine ⟨fun w => ?_, fun s _ rest => step_cmdWrite_rejected s rest⟩
  have hlt := opcode_lt w
  have hop4 : w.extractLsb' 0 4 = BitVec.ofNat 4 (opcode w) := by
    rw [opcode, BitVec.ofNat_toNat, BitVec.setWidth_eq]
    rfl
  interval_cases hop : opcode w
  · simp [rejected_iff (lo := 4) (n := 28) hop rfl le_rfl, hop4]
  · simp [rejected_iff (lo := 11) (n := 21) hop rfl le_rfl, hop4]
  · simp [rejected_iff (lo := 18) (n := 14) hop rfl le_rfl, hop4]
  · simp [rejected_iff (lo := 4) (n := 28) hop rfl le_rfl, hop4]
  · simp [rejected_iff (lo := 4) (n := 28) hop rfl le_rfl, hop4]
  · simp [rejected_iff (lo := 4) (n := 28) hop rfl le_rfl, hop4]
  · simp [rejected_iff (lo := 5) (n := 27) hop rfl le_rfl, hop4]
  · simp [rejected_iff (lo := 16) (n := 16) hop rfl le_rfl, hop4]
  · simp [rejected_iff (lo := 11) (n := 21) hop rfl le_rfl, hop4]
  · simp [rejected_iff (lo := 10) (n := 22) hop rfl le_rfl, hop4]
  · simp [rejected_iff (lo := 5) (n := 27) hop rfl le_rfl, hop4]
  · simp [rejected_iff (lo := 16) (n := 16) hop rfl le_rfl, hop4]
  · simp [rejected_iff (lo := 32) (n := 0) hop rfl le_rfl, hop4]
  · simp [rejected_iff (lo := 32) (n := 0) hop rfl le_rfl, hop4]
  · simp [rejected_iff (lo := 32) (n := 0) hop rfl le_rfl, hop4]
  · simp [rejected_iff (lo := 32) (n := 0) hop rfl le_rfl, hop4]

/-- Settles O44: FAULT is checked before the access, the access before the command, and the opcode before the
reserved bits. -/
theorem checksComeInOrder : Obligations.ChecksComeInOrder := by
  unfold Obligations.ChecksComeInOrder
  refine ⟨fun s width off v rest h => ?_, fun s width off v rest h => ⟨fun hbad => ?_, fun hbad => ?_⟩,
    fun s w rest h => ⟨step_cmdWrite_reservedOpcode s rest h, fun _ hres => ?_, fun _ hres => ?_⟩⟩
  · exact (step_event s _ rest).trans (hostWrite_faulted width off v { s with hostIn := rest } h)
  · by_cases hacc : width ≠ 32 ∨ ¬ MappedOffset off.toNat
    · exact ((badAccessesFault s width off v rest h).1 hacc).1
    · obtain ⟨rfl, hmap⟩ : width = 32 ∧ MappedOffset off.toNat := by simpa [not_or] using hacc
      have hro : ¬ WritableOffset off.toNat := by simpa [hmap] using hbad
      exact (badAccessesFault s 32 off v rest h).2 hmap hro
  · exact ((badAccessesFault s width off v rest h).1 hbad).2
  · exact step_cmdWrite_rejected s rest h (decodeCommand_eq_error.2 hres)
  · have hdec : decodeCommand w = .ok (commandOf w) := decodeCommand_eq_ok.2 ⟨hres, rfl⟩
    exact ⟨commandOf w, hdec, step_cmdWrite s rest h hdec⟩

/-! ## Host programs -/

/-- A number of a line that fits its field, shifted to its place (R78). -/
theorem ofNat_shiftLeft_toNat {n : Nat} (x : BitVec n) (lo : Nat) (h : n ≤ 32) :
    BitVec.ofNat 32 (x.toNat <<< lo) = place x lo := by
  apply BitVec.eq_of_toNat_eq
  rw [place, BitVec.toNat_ofNat, BitVec.toNat_shiftLeft, BitVec.toNat_setWidth_of_le h]

/-- The two lines of a register are one 32-bit access each, to its offset (R56, R78). -/
theorem expandLine_register (r : HostReg) :
    (∀ v : Word, expandLine (.wr r v.toNat) = some [.write 32 (BitVec.ofNat 10 (regOffset r)) v]) ∧
    expandLine (.rd r) = some [.read 32 (BitVec.ofNat 10 (regOffset r))] :=
  ⟨fun v => by simp [expandLine, regWrite], rfl⟩

/-- The line `l` is one CMD write of a word that decodes to `i` (R78). -/
def LineSpells (l : HostLine) (i : Instr) : Prop :=
  ∃ w : Word, expandLine l = some [.write 32 0 w] ∧ decodeCommand w = .ok i

/-- A command line whose word is the encoding of `i` spells `i`. -/
theorem lineSpells_of_encode {l : HostLine} {i : Instr} {n : Nat} (hl : expandLine l = some (wrCmd n))
    (hi : encode i = .command (BitVec.ofNat 32 n)) : LineSpells l i :=
  ⟨BitVec.ofNat 32 n, hl, commandsSurviveEncoding i _ hi⟩

theorem lineSpells_rdbit (off : BitVec 7) : LineSpells (.rdbit off.toNat) (.rdbit off) := by
  refine lineSpells_of_encode rfl ?_
  simp only [encode, BitVec.ofNat_or, ofNat_shiftLeft_toNat off 4 (by decide)]
  ac_rfl

theorem lineSpells_rdbits (off len : BitVec 7) :
    LineSpells (.rdbits off.toNat len.toNat) (.rdbits off len) := by
  refine lineSpells_of_encode rfl ?_
  simp only [encode, BitVec.ofNat_or, ofNat_shiftLeft_toNat off 4 (by decide),
    ofNat_shiftLeft_toNat len 11 (by decide)]
  ac_rfl

theorem lineSpells_partq (ns : BitVec 2) (p : BitVec 6) (k : BitVec 4) :
    LineSpells (.partq ns.toNat p.toNat k.toNat) (.partq ns p k) := by
  refine lineSpells_of_encode rfl ?_
  simp only [encode, BitVec.ofNat_or, ofNat_shiftLeft_toNat ns 4 (by decide),
    ofNat_shiftLeft_toNat p 6 (by decide), ofNat_shiftLeft_toNat k 12 (by decide)]
  ac_rfl

theorem lineSpells_interp (idx : BitVec 4) (prec : BitVec 3) :
    LineSpells (.interp idx.toNat prec.toNat) (.interp idx prec) := by
  refine lineSpells_of_encode rfl ?_
  simp only [encode, BitVec.ofNat_or, ofNat_shiftLeft_toNat idx 4 (by decide),
    ofNat_shiftLeft_toNat prec 8 (by decide)]
  ac_rfl

theorem lineSpells_unq6U (n : BitVec 5) : LineSpells (.unq6U n.toNat) (.unq6 n false) := by
  refine lineSpells_of_encode rfl ?_
  have hsg : place (flagBit false) 9 = 0#32 := rfl
  simp only [encode, BitVec.ofNat_or, ofNat_shiftLeft_toNat n 4 (by decide), hsg, BitVec.or_zero]
  ac_rfl

theorem lineSpells_unq6S (n : BitVec 5) : LineSpells (.unq6S n.toNat) (.unq6 n true) := by
  refine lineSpells_of_encode rfl ?_
  have hsg : place (flagBit true) 9 = BitVec.ofNat 32 (1 <<< 9) := rfl
  simp only [encode, BitVec.ofNat_or, ofNat_shiftLeft_toNat n 4 (by decide), hsg, BitVec.ofNat_eq_ofNat]
  ac_rfl

theorem lineSpells_expand7 (n : BitVec 4) (v : BitVec 8) :
    LineSpells (.expand7 n.toNat v.toNat) (.expand7 n v) := by
  refine lineSpells_of_encode rfl ?_
  simp only [encode, BitVec.ofNat_or, ofNat_shiftLeft_toNat n 4 (by decide),
    ofNat_shiftLeft_toNat v 8 (by decide)]
  ac_rfl

/-- The number that `ldblk` makes of its bytes, the first byte lowest (R52, R79). -/
def bytesValue (bytes : List Byte) : Nat := bytes.foldr (fun b acc => b.toNat + 256 * acc) 0

theorem bytesValue_cons (b : Byte) (bytes : List Byte) :
    bytesValue (b :: bytes) = b.toNat + 256 * bytesValue bytes := rfl

theorem bytesValue_lt (bytes : List Byte) : bytesValue bytes < 256 ^ bytes.length := by
  induction bytes with
  | nil => exact Nat.one_pos
  | cons b bytes ih =>
    have hb := b.isLt
    rw [bytesValue_cons, List.length_cons, Nat.pow_succ]
    omega

/-- Byte `k` of the number is byte `k` of the line. -/
theorem bytesValue_byte (bytes : List Byte) (k : Nat) (hk : k < bytes.length) :
    bytesValue bytes / 256 ^ k % 256 = bytes[k].toNat := by
  induction bytes generalizing k with
  | nil => exact absurd hk (Nat.not_lt_zero k)
  | cons b bytes ih =>
    have hb := b.isLt
    rw [bytesValue_cons]
    cases k with
    | zero => simp only [pow_zero, List.getElem_cons_zero]; omega
    | succ k =>
      rw [Nat.pow_succ', ← Nat.div_div_eq_div_mul, List.getElem_cons_succ,
        ← ih k (Nat.lt_of_succ_lt_succ hk)]
      congr 2
      omega

/-- Byte `k` of the block of 16 bytes lies in block bits 8k+7..8k (R8, R52). -/
theorem extract_bytesValue (bytes : List Byte) (hlen : bytes.length = 16) (k : Nat) (hk : k < bytes.length) :
    (BitVec.ofNat 128 (bytesValue bytes)).extractLsb' (8 * k) 8 = bytes[k] := by
  have hlt : bytesValue bytes < 2 ^ 128 := by
    have := bytesValue_lt bytes
    rw [hlen] at this
    exact this
  apply BitVec.eq_of_toNat_eq
  rw [BitVec.extractLsb'_toNat, BitVec.toNat_ofNat, Nat.mod_eq_of_lt hlt, Nat.shiftRight_eq_div_pow, pow_mul]
  exact bytesValue_byte bytes k hk

theorem blockOfBytes_of_length {bytes : List Byte} (h : bytes.length = 16) :
    blockOfBytes bytes = some (BitVec.ofNat 128 (bytesValue bytes)) := if_pos h

/-- The accesses of two programs in a row are those of the one, then those of the other (R78). -/
theorem expandProgram_append (p q : List HostLine) : expandProgram (p ++ q) =
    (expandProgram p).bind fun a => (expandProgram q).map fun b => a ++ b := by
  induction p with
  | nil => simp
  | cons l p ih =>
    rw [List.cons_append, expandProgram_cons, expandProgram_cons, ih]
    cases expandLine l <;> cases expandProgram p <;> cases expandProgram q <;> simp

theorem expandProgram_singleton (l : HostLine) : expandProgram [l] = expandLine l := by
  rw [expandProgram_cons]
  cases expandLine l <;> simp

/-- Settles O51: each command line's word is the encoding of its command, so O2 gives what it decodes to. -/
theorem hostLinesSpellTheirCommands : Obligations.HostLinesSpellTheirCommands := by
  unfold Obligations.HostLinesSpellTheirCommands
  intro spells names arg0 arg1
  have spell {l : HostLine} {i : Instr} {n : Nat} (hl : expandLine l = some (wrCmd n))
    (hi : encode i = .command (BitVec.ofNat 32 n)) : spells l i := lineSpells_of_encode hl hi
  refine ⟨⟨expandLine_register .cmd, expandLine_register .status, expandLine_register .arg0,
      expandLine_register .arg1, expandLine_register .resLo, expandLine_register .resHi,
      fun k => expandLine_register (.blkW k), fun k => expandLine_register (.outf k),
      fun k => expandLine_register (.outbW k)⟩,
    fun off v => ⟨by simp [expandLine], rfl⟩,
    spell rfl rfl, spell rfl rfl, spell rfl rfl, spell rfl rfl, spell rfl rfl, spell rfl rfl, spell rfl rfl,
    spell rfl rfl, lineSpells_rdbit, lineSpells_rdbits, lineSpells_partq, lineSpells_interp,
    fun n => ⟨lineSpells_unq6U n, lineSpells_unq6S n⟩, lineSpells_expand7,
    fun _ _ _ _ => rfl, fun _ _ => ⟨rfl, rfl⟩, fun _ => ⟨rfl, rfl⟩, rfl, fun _ => rfl,
    fun bytes h => ?_, fun bytes => ?_, rfl, expandProgram_singleton, expandProgram_append⟩
  · have hnone : blockOfBytes bytes = none := if_neg h
    rw [expandLine, hnone, Option.map_none]
  · refine ⟨BitVec.ofNat 128 (bytesValue bytes.toList), ?_, fun k => ?_⟩
    · rw [expandLine, blockOfBytes_of_length bytes.length_toList, Option.map_some]
      rfl
    · rw [extract_bytesValue bytes.toList bytes.length_toList k (by simp)]
      simp

end Sys2Proof.Machine
end

section
/-! PROOFS, 30_encoding: block layouts. A list of layout rows that lays its fields into the block above the selector
without a gap or an overlap makes gathering and scattering inverse to one another (R172, R173). -/

namespace Sys2Proof.Machine

variable {F : Type} [DecidableEq F]

/-! ## Rows that follow one another -/

/-- The rows take the block bits `pos` to `stop - 1`, each row from where the one before it ends. -/
def consecutive : Nat → List (LayoutRow F) → Nat → Bool
  | pos, [], stop => pos == stop
  | pos, r :: rows, stop => r.lo == pos && consecutive (pos + r.len) rows stop

omit [DecidableEq F] in
theorem consecutive_cons {pos stop : Nat} {r : LayoutRow F} {rows : List (LayoutRow F)} :
    consecutive pos (r :: rows) stop = true ↔ r.lo = pos ∧ consecutive (pos + r.len) rows stop = true := by
  simp [consecutive]

omit [DecidableEq F] in
theorem consecutive_le {pos stop : Nat} {rows : List (LayoutRow F)} (h : consecutive pos rows stop = true) :
    pos ≤ stop := by
  induction rows generalizing pos with
  | nil => exact Nat.le_of_eq (beq_iff_eq.1 h)
  | cons r rows ih => exact (Nat.le_add_right _ _).trans (ih (consecutive_cons.1 h).2)

omit [DecidableEq F] in
theorem consecutive_mem {pos stop : Nat} {rows : List (LayoutRow F)} (h : consecutive pos rows stop = true) :
    ∀ r ∈ rows, pos ≤ r.lo ∧ r.lo + r.len ≤ stop := by
  induction rows generalizing pos with
  | nil => nofun
  | cons r rows ih =>
    obtain ⟨hlo, hrest⟩ := consecutive_cons.1 h
    intro r' hr'
    rcases List.mem_cons.1 hr' with rfl | hr'
    · have := consecutive_le hrest
      omega
    · have := ih hrest r' hr'
      omega

omit [DecidableEq F] in
theorem consecutive_disjointBits {pos stop : Nat} {rows : List (LayoutRow F)}
    (h : consecutive pos rows stop = true) : disjointBits rows := by
  induction rows generalizing pos with
  | nil => exact List.Pairwise.nil
  | cons r rows ih =>
    obtain ⟨hlo, hrest⟩ := consecutive_cons.1 h
    refine List.Pairwise.cons (fun r' hr' => .inl ?_) (ih hrest)
    have := consecutive_mem hrest r' hr'
    omega

omit [DecidableEq F] in
theorem consecutive_covers {pos stop p : Nat} {rows : List (LayoutRow F)}
    (h : consecutive pos rows stop = true) (hle : pos ≤ p) (hlt : p < stop) :
    ∃ r ∈ rows, r.takesBit p = true := by
  induction rows generalizing pos with
  | nil =>
    have : pos = stop := beq_iff_eq.1 h
    omega
  | cons r rows ih =>
    obtain ⟨hlo, hrest⟩ := consecutive_cons.1 h
    by_cases hp : p < pos + r.len
    · refine ⟨r, List.mem_cons_self, ?_⟩
      simp only [LayoutRow.takesBit, Bool.and_eq_true, decide_eq_true_eq]
      omega
    · obtain ⟨r', hr', ht⟩ := ih hrest (Nat.le_of_not_lt hp)
      exact ⟨r', List.mem_cons_of_mem r hr', ht⟩

/-! ## Layouts of a whole block -/

/-- The rows lay fields of these widths into block bits `hdr` to 127, each block bit and each field bit once. -/
structure LaysOut (rows : List (LayoutRow F)) (hdr : Nat) (width : F → Nat) : Prop where
  consecutive : consecutive hdr rows 128 = true
  disjointFields : disjointFields rows
  inField : ∀ r ∈ rows, r.bit + r.len ≤ width r.field
  coversField : ∀ x j, j < width x → ∃ r ∈ rows, r.field = x ∧ r.holdsBit j = true

namespace LaysOut

variable {rows : List (LayoutRow F)} {hdr : Nat} {width : F → Nat}

theorem gather_lt (h : LaysOut rows hdr width) (blk : Block) (x : F) : gather blk rows x < 2 ^ width x :=
  Machine.gather_lt blk rows x (width x) fun r hr hf => hf ▸ h.inField r hr

/-- Fields that fit are gathered from the block they were scattered into. -/
theorem gather_scatter (h : LaysOut rows hdr width) {val : F → Nat} {sel : Nat} (hsel : sel < 2 ^ hdr)
    (hval : ∀ x, val x < 2 ^ width x) (x : F) :
    gather (BitVec.ofNat 128 (sel ||| scatter val rows)) rows x = val x := by
  refine Machine.gather_scatter val rows sel hdr x hsel (consecutive_disjointBits h.consecutive)
    (consecutive_mem h.consecutive) fun j hj => ?_
  refine h.coversField x j (Nat.lt_of_not_le fun hle => ?_)
  have hlt : val x < 2 ^ j := (hval x).trans_le (Nat.pow_le_pow_right (by decide) hle)
  rw [Nat.testBit_lt_two_pow hlt] at hj
  exact Bool.false_ne_true hj

/-- A block is its selector and its gathered fields, scattered. -/
theorem scatter_gather (h : LaysOut rows hdr width) {blk : Block} {val : F → Nat}
    (hval : ∀ x, val x = gather blk rows x) :
    BitVec.ofNat 128 (memRead blk 0 hdr ||| scatter val rows) = blk := by
  apply BitVec.eq_of_getLsbD_eq
  intro p hp
  have hs := Machine.scatter_gather blk rows val hdr hval h.disjointFields
    (fun r hr => (consecutive_mem h.consecutive r hr).1)
    (fun p hle hlt => consecutive_covers h.consecutive hle hlt) p hp
  rw [BitVec.getLsbD_ofNat, Nat.testBit_or, memRead_testBit, Nat.zero_add, Bool.eq_iff_iff]
  by_cases hlow : p < hdr
  · simp [hp, hlow, hs]
  · simp [hp, hlow, hs, Nat.le_of_not_lt hlow]

/-- The bits of a row from bit 0 of its field are the field's low bits. -/
theorem gather_mod (h : LaysOut rows hdr width) (blk : Block) {lo n : Nat} {x : F}
    (hr : ⟨lo, n, x, 0⟩ ∈ rows) : gather blk rows x % 2 ^ n = memRead blk lo n := by
  apply Nat.eq_of_testBit_eq
  intro j
  rw [Nat.testBit_mod_two_pow, memRead_testBit]
  by_cases hj : j < n
  · rw [Bool.eq_iff_iff]
    simp only [hj, decide_true, Bool.true_and, gather_testBit]
    constructor
    · rintro ⟨r, hr', hf, hh, hb⟩
      simp only [LayoutRow.holdsBit, Bool.and_eq_true, decide_eq_true_eq] at hh
      rcases eq_or_rel_of_pairwise h.disjointFields hr hr' with rfl | hd | hd
      · exact hb
      · have : n ≤ r.bit ∨ r.bit + r.len ≤ 0 := by simpa using hd hf.symm
        omega
      · have : r.bit + r.len ≤ 0 ∨ n ≤ r.bit := by simpa using hd hf
        omega
    · intro hb
      exact ⟨_, hr, rfl, by simpa [LayoutRow.holdsBit] using hj, hb⟩
  · simp [hj]

/-- A field that one row holds whole is the cursor read of that row. -/
theorem gather_eq (h : LaysOut rows hdr width) (blk : Block) {lo : Nat} {x : F}
    (hr : ⟨lo, width x, x, 0⟩ ∈ rows) : gather blk rows x = memRead blk lo (width x) := by
  rw [← h.gather_mod blk hr, Nat.mod_eq_of_lt (h.gather_lt blk x)]

end LaysOut

end Sys2Proof.Machine
end

section
/-! PROOFS, 30_encoding: BC6H blocks (R81 to R100). -/

namespace Sys2Proof.Machine

/-! ## The layout of each mode -/

/-- The width of each field of a BC6H block (R99, R141): 0 for one that a 1-subset mode does not have. -/
def bc6hWidth (d : Bc6hDesc) : Bc6hField → Nat
  | .r0 | .g0 | .b0 => d.eb
  | .r1 => d.stored .r
  | .g1 => d.stored .g
  | .b1 => d.stored .b
  | .r2 | .r3 => if d.ns = 2 then d.stored .r else 0
  | .g2 | .g3 => if d.ns = 2 then d.stored .g else 0
  | .b2 | .b3 => if d.ns = 2 then d.stored .b else 0
  | .d => if d.ns = 2 then 5 else 0
  | .index => 128 - d.ioff

/-- The fields of a BC6H block, all of them. -/
def bc6hFieldList : List Bc6hField := [.r0, .g0, .b0, .r1, .g1, .b1, .r2, .g2, .b2, .r3, .g3, .b3, .d, .index]

theorem mem_bc6hFieldList (x : Bc6hField) : x ∈ bc6hFieldList := by cases x <;> decide

theorem bc6hRows_disjointFields (m : Bc6hMode) : disjointFields (bc6hRows m) := by
  unfold disjointFields
  cases m <;> decide

theorem bc6hRows_coverFields (m : Bc6hMode) : ∀ x ∈ bc6hFieldList, ∀ j < bc6hWidth (bc6hDesc m) x,
    ∃ r ∈ (bc6hRows m).filter (·.field = x), r.holdsBit j = true := by
  cases m <;> decide

/-- The table of each mode lays the fields out from its selector to bit 127 (R84 to R97, R99). -/
theorem bc6hRows_layOut (m : Bc6hMode) : LaysOut (bc6hRows m) (bc6hDesc m).hdr (bc6hWidth (bc6hDesc m)) where
  consecutive := by cases m <;> rfl
  disjointFields := bc6hRows_disjointFields m
  inField := by cases m <;> decide
  coversField x j hj := by
    obtain ⟨r, hr, hh⟩ := bc6hRows_coverFields m x (mem_bc6hFieldList x) j hj
    obtain ⟨hr, hf⟩ := List.mem_filter.1 hr
    exact ⟨r, hr, of_decide_eq_true hf, hh⟩

/-! ## The fields as a record -/

/-- Two records of BC6H fields with the same values are the same. -/
theorem bc6hFields_ext {f g : Bc6hFields} (h : ∀ x, bc6hVal f x = bc6hVal g x) : f = g := by
  obtain ⟨⟨_, _, _⟩, ⟨_, _, _⟩, ⟨_, _, _⟩, ⟨_, _, _⟩, _, _⟩ := f
  obtain ⟨⟨_, _, _⟩, ⟨_, _, _⟩, ⟨_, _, _⟩, ⟨_, _, _⟩, _, _⟩ := g
  simp only [Bc6hFields.mk.injEq, Bc6hRaw.mk.injEq]
  exact ⟨⟨BitVec.eq_of_toNat_eq (h .r0), BitVec.eq_of_toNat_eq (h .g0), BitVec.eq_of_toNat_eq (h .b0)⟩,
    ⟨BitVec.eq_of_toNat_eq (h .r1), BitVec.eq_of_toNat_eq (h .g1), BitVec.eq_of_toNat_eq (h .b1)⟩,
    ⟨BitVec.eq_of_toNat_eq (h .r2), BitVec.eq_of_toNat_eq (h .g2), BitVec.eq_of_toNat_eq (h .b2)⟩,
    ⟨BitVec.eq_of_toNat_eq (h .r3), BitVec.eq_of_toNat_eq (h .g3), BitVec.eq_of_toNat_eq (h .b3)⟩,
    BitVec.eq_of_toNat_eq (h .d), BitVec.eq_of_toNat_eq (h .index)⟩

/-- The bits the record has for a field. -/
def bc6hCapacity : Bc6hField → Nat
  | .d => 5
  | .index => 63
  | _ => 16

theorem bc6hWidth_le (m : Bc6hMode) : ∀ x ∈ bc6hFieldList, bc6hWidth (bc6hDesc m) x ≤ bc6hCapacity x := by
  cases m <;> decide

/-- Every gathered field fits the record, so the record holds it whole. -/
theorem bc6hVal_fieldsOf (m : Bc6hMode) (blk : Block) (x : Bc6hField) :
    bc6hVal (bc6hFieldsOf m blk) x = gather blk (bc6hRows m) x := by
  have hmod : bc6hVal (bc6hFieldsOf m blk) x = gather blk (bc6hRows m) x % 2 ^ bc6hCapacity x := by
    cases x <;> exact BitVec.toNat_ofNat _ _
  rw [hmod, Nat.mod_eq_of_lt]
  exact ((bc6hRows_layOut m).gather_lt blk x).trans_le
    (Nat.pow_le_pow_right (by decide) (bc6hWidth_le m x (mem_bc6hFieldList x)))

theorem forall_bc6hField {P : Bc6hField → Prop} : (∀ x, P x) ↔
    (P .r0 ∧ P .g0 ∧ P .b0) ∧ (P .r1 ∧ P .g1 ∧ P .b1) ∧ (P .r2 ∧ P .g2 ∧ P .b2) ∧ (P .r3 ∧ P .g3 ∧ P .b3) ∧
      P .d ∧ P .index := by
  constructor
  · exact fun h => ⟨⟨h _, h _, h _⟩, ⟨h _, h _, h _⟩, ⟨h _, h _, h _⟩, ⟨h _, h _, h _⟩, h _, h _⟩
  · rintro ⟨⟨hr0, hg0, hb0⟩, ⟨hr1, hg1, hb1⟩, ⟨hr2, hg2, hb2⟩, ⟨hr3, hg3, hb3⟩, hd, hi⟩ x
    cases x <;> assumption

theorem bc6hRaw_eq_zero (e : Bc6hRaw) :
    e = ⟨0, 0, 0⟩ ↔ e.r.toNat < 2 ^ 0 ∧ e.g.toNat < 2 ^ 0 ∧ e.b.toNat < 2 ^ 0 := by
  obtain ⟨r, g, b⟩ := e
  simp [← BitVec.toNat_inj]

/-- Well-formed is: each field fits its width. -/
theorem bc6hFields_wf_iff (d : Bc6hDesc) (f : Bc6hFields) :
    f.wf d = true ↔ ∀ x, bc6hVal f x < 2 ^ bc6hWidth d x := by
  have hd5 : f.d.toNat < 2 ^ 5 := f.d.isLt
  have hd0 : f.d = 0 ↔ f.d.toNat < 2 ^ 0 := by simp [← BitVec.toNat_inj]
  simp only [Bc6hFields.wf, Bc6hFields.baseFits, Bc6hRaw.fits, Bc6hFields.absentZero, Bc6hFields.indexFits, fits6,
    Bool.and_eq_true, Bool.or_eq_true, decide_eq_true_eq, beq_iff_eq, bc6hRaw_eq_zero, forall_bc6hField, bc6hVal,
    bc6hWidth, hd0]
  by_cases hns : d.ns = 2
  · simp only [hns, if_true, true_or, hd5]
    tauto
  · have hweak : ∀ n k : Nat, n < 2 ^ 0 → n < 2 ^ k := fun n k h =>
      h.trans_le (Nat.pow_le_pow_right (by decide) (Nat.zero_le k))
    simp only [hns, if_false, false_or]
    grind

/-! ## The selector -/

/-- The selector that the low 5 bits of a block hold (R81). -/
def selectorOfBits (v : Nat) : Nat × Nat := if v % 4 < 2 then (v % 4, 2) else (v, 5)

theorem bc6hSelector_eq (blk : Block) : bc6hSelector blk = selectorOfBits (memRead blk 0 5) := by
  have hlow : memRead blk 0 5 % 2 ^ 2 = memRead blk 0 2 := memRead_mod blk 0 2 5 (by decide)
  rw [bc6hSelector, ← hlow]
  rfl

/-- A block has a mode's selector exactly when its header bits are the mode's number (R81, R82). -/
theorem modeOfId_selector_iff (blk : Block) (m : Bc6hMode) :
    bc6hModeOfId (bc6hSelector blk).1 = some m ↔ memRead blk 0 (bc6hDesc m).hdr = bc6hModeId m := by
  have hall : ∀ v : Fin 32, bc6hModeOfId (selectorOfBits v).1 = some m ↔
      v.val % 2 ^ (bc6hDesc m).hdr = bc6hModeId m := by cases m <;> decide
  have hhdr : (bc6hDesc m).hdr ≤ 5 := by cases m <;> decide
  rw [bc6hSelector_eq, ← memRead_mod blk 0 _ 5 hhdr]
  exact hall ⟨_, memRead_lt blk 0 5⟩

theorem bc6hSelector_of_mode {blk : Block} {m : Bc6hMode} (h : bc6hModeOfId (bc6hSelector blk).1 = some m) :
    (bc6hDesc m).hdr = (bc6hSelector blk).2 := by
  have hall : ∀ v : Fin 32, bc6hModeOfId (selectorOfBits v).1 = some m →
      (bc6hDesc m).hdr = (selectorOfBits v).2 := by cases m <;> decide
  rw [bc6hSelector_eq] at h ⊢
  exact hall ⟨_, memRead_lt blk 0 5⟩ h

theorem decodeBc6hBlock_mode {blk : Block} {m : Bc6hMode} (h : bc6hModeOfId (bc6hSelector blk).1 = some m) :
    decodeBc6hBlock blk = .ofBc6h m (bc6hFieldsOf m blk) := by
  rw [decodeBc6hBlock, h]

/-- A block whose low 5 bits are a reserved selector has no mode, and that selector (R82). -/
theorem reserved_selector {blk : Block} {k : Bc6hReserved} (h : memRead blk 0 5 = bc6hReservedId k) :
    bc6hModeOfId (bc6hSelector blk).1 = none ∧ bc6hReservedOf (bc6hSelector blk).1 = k := by
  rw [bc6hSelector_eq, h]
  cases k <;> exact ⟨rfl, rfl⟩

theorem decodeBc6hBlock_reserved {blk : Block} {k : Bc6hReserved} (h : memRead blk 0 5 = bc6hReservedId k) :
    decodeBc6hBlock blk = .ofBc6hReserved k (blk.extractLsb' 5 123) := by
  obtain ⟨hnone, hk⟩ := reserved_selector h
  rw [decodeBc6hBlock, hnone, ← hk]

/-- Settles O7: the selector is a function of the block's low 5 bits. -/
theorem bc6hSelectorSpace : Obligations.Bc6hSelectorSpace := by
  unfold Obligations.Bc6hSelectorSpace
  intro b
  have hmod : (b.extractLsb' 0 2).toNat = memRead b 0 5 % 4 := by
    rw [← memRead_eq_extract]
    exact (memRead_mod b 0 2 5 (by decide)).symm
  have hdiv : (b.extractLsb' 2 3).toNat = memRead b 0 5 / 4 := by
    rw [← memRead_eq_extract, memRead, memRead, Nat.shiftRight_zero, Nat.shiftRight_eq_div_pow]
    omega
  have hlt : memRead b 0 5 < 32 := memRead_lt b 0 5
  have hvalid : ∀ v : Fin 32, (∃ m, bc6hModeOfId (selectorOfBits v).1 = some m) ↔
      ¬ (v.val % 4 = 3 ∧ 4 ≤ v.val / 4) := by
    simp only [← Option.isSome_iff_exists]
    decide
  refine ⟨fun h => ?_, fun h => ?_, fun h => ?_, ?_, fun m h => ?_, fun k h => ?_⟩
  · rw [bc6hSelector_eq, selectorOfBits, ← hmod, h]
    rfl
  · rw [bc6hSelector_eq, selectorOfBits, ← hmod, h]
    rfl
  · rw [bc6hSelector_eq, selectorOfBits, ← hmod, if_neg (Nat.not_lt.2 h), memRead_eq_extract]
  · rw [bc6hSelector_eq, ← BitVec.toNat_inj, hmod, hdiv]
    exact hvalid ⟨_, hlt⟩
  · exact ⟨decodeBc6hBlock_mode h, bc6hModeId_of_modeOfId _ m h, bc6hSelector_of_mode h⟩
  · refine decodeBc6hBlock_reserved ?_
    rw [memRead_eq_extract, h]
    cases k <;> rfl

/-! ## Encoding and decoding a block -/

theorem encode_ofBc6h (m : Bc6hMode) (f : Bc6hFields) : encode (.ofBc6h m f) = .bc6hBlock (encodeBc6h m f) := by
  cases m <;> rfl

theorem encode_ofBc6hReserved (k : Bc6hReserved) (rest : BitVec 123) :
    encode (.ofBc6hReserved k rest) = .bc6hBlock (encodeBc6hReserved k rest) := by
  cases k <;> rfl

theorem wf_ofBc6h (m : Bc6hMode) (f : Bc6hFields) : (Instr.ofBc6h m f).wf = f.wf (bc6hDesc m) := by
  cases m <;> rfl

theorem wf_ofBc6hReserved (k : Bc6hReserved) (rest : BitVec 123) : (Instr.ofBc6hReserved k rest).wf = true := by
  cases k <;> rfl

/-- The instructions whose encoding is a BC6H block are those of the 14 modes and the 4 reserved selectors. -/
theorem bc6hInstr_cases {i : Instr} {b : Block} (h : encode i = .bc6hBlock b) :
    (∃ m f, i = .ofBc6h m f) ∨ ∃ k rest, i = .ofBc6hReserved k rest := by
  cases i with
  | bc6hMode00 f => exact .inl ⟨.m00, f, rfl⟩
  | bc6hMode01 f => exact .inl ⟨.m01, f, rfl⟩
  | bc6hMode02 f => exact .inl ⟨.m02, f, rfl⟩
  | bc6hMode06 f => exact .inl ⟨.m06, f, rfl⟩
  | bc6hMode0A f => exact .inl ⟨.m0A, f, rfl⟩
  | bc6hMode0E f => exact .inl ⟨.m0E, f, rfl⟩
  | bc6hMode12 f => exact .inl ⟨.m12, f, rfl⟩
  | bc6hMode16 f => exact .inl ⟨.m16, f, rfl⟩
  | bc6hMode1A f => exact .inl ⟨.m1A, f, rfl⟩
  | bc6hMode1E f => exact .inl ⟨.m1E, f, rfl⟩
  | bc6hMode03 f => exact .inl ⟨.m03, f, rfl⟩
  | bc6hMode07 f => exact .inl ⟨.m07, f, rfl⟩
  | bc6hMode0B f => exact .inl ⟨.m0B, f, rfl⟩
  | bc6hMode0F f => exact .inl ⟨.m0F, f, rfl⟩
  | bc6hReserved13 rest => exact .inr ⟨.s13, rest, rfl⟩
  | bc6hReserved17 rest => exact .inr ⟨.s17, rest, rfl⟩
  | bc6hReserved1B rest => exact .inr ⟨.s1B, rest, rfl⟩
  | bc6hReserved1F rest => exact .inr ⟨.s1F, rest, rfl⟩
  | _ => cases h

/-- The header bits of an encoded block are the mode's number (R81). -/
theorem memRead_encodeBc6h (m : Bc6hMode) (f : Bc6hFields) :
    memRead (encodeBc6h m f) 0 (bc6hDesc m).hdr = bc6hModeId m := by
  rw [memRead, Nat.shiftRight_zero, ← Nat.and_two_pow_sub_one_eq_mod]
  exact Laws.OpcodeBits.bc6h_bits m f

/-- The fields of an encoded block are those it was encoded from. -/
theorem bc6hFieldsOf_encode {m : Bc6hMode} {f : Bc6hFields} (h : f.wf (bc6hDesc m) = true) :
    bc6hFieldsOf m (encodeBc6h m f) = f := by
  have hsel : bc6hModeId m < 2 ^ (bc6hDesc m).hdr := by cases m <;> decide
  refine bc6hFields_ext fun x => ?_
  rw [bc6hVal_fieldsOf]
  exact (bc6hRows_layOut m).gather_scatter hsel ((bc6hFields_wf_iff _ f).1 h) x

theorem decodeBc6hBlock_encode {m : Bc6hMode} {f : Bc6hFields} (h : f.wf (bc6hDesc m) = true) :
    decodeBc6hBlock (encodeBc6h m f) = .ofBc6h m f := by
  rw [decodeBc6hBlock_mode ((modeOfId_selector_iff _ m).2 (memRead_encodeBc6h m f)), bc6hFieldsOf_encode h]

theorem decodeBc6hBlock_encodeReserved (k : Bc6hReserved) (rest : BitVec 123) :
    decodeBc6hBlock (encodeBc6hReserved k rest) = .ofBc6hReserved k rest := by
  have hlow : (encodeBc6hReserved k rest).extractLsb' 0 5 = BitVec.ofNat 5 (bc6hReservedId k) := by
    rw [encodeBc6hReserved, BitVec.extractLsb'_append_eq_of_add_le (by decide), BitVec.extractLsb'_eq_self]
  have hrest : (encodeBc6hReserved k rest).extractLsb' 5 123 = rest :=
    BitVec.extractLsb'_append_eq_left
  have hsel : memRead (encodeBc6hReserved k rest) 0 5 = bc6hReservedId k := by
    rw [memRead_eq_extract, hlow]
    cases k <;> rfl
  rw [decodeBc6hBlock_reserved hsel, hrest]

/-- Settles O3: the encoder's block has the selector of the instruction, and each field is gathered from where it
was scattered. -/
theorem bc6hBlocksSurviveEncoding : Obligations.Bc6hBlocksSurviveEncoding := by
  unfold Obligations.Bc6hBlocksSurviveEncoding
  intro i b hwf h
  obtain ⟨m, f, rfl⟩ | ⟨k, rest, rfl⟩ := bc6hInstr_cases h
  · rw [encode_ofBc6h] at h
    rw [wf_ofBc6h] at hwf
    obtain rfl := Encoded.bc6hBlock.inj h
    exact decodeBc6hBlock_encode hwf
  · rw [encode_ofBc6hReserved] at h
    obtain rfl := Encoded.bc6hBlock.inj h
    exact decodeBc6hBlock_encodeReserved k rest

theorem bc6hFieldsOf_wf (m : Bc6hMode) (blk : Block) : (bc6hFieldsOf m blk).wf (bc6hDesc m) = true := by
  refine (bc6hFields_wf_iff _ _).2 fun x => ?_
  rw [bc6hVal_fieldsOf]
  exact (bc6hRows_layOut m).gather_lt blk x

/-- A block with a mode is the encoding of its fields. -/
theorem encodeBc6h_fieldsOf {m : Bc6hMode} {blk : Block} (h : bc6hModeOfId (bc6hSelector blk).1 = some m) :
    encodeBc6h m (bc6hFieldsOf m blk) = blk := by
  rw [encodeBc6h, ← (modeOfId_selector_iff blk m).1 h]
  exact (bc6hRows_layOut m).scatter_gather (bc6hVal_fieldsOf m blk)

/-- A block without a mode is the encoding of its reserved selector and its other 123 bits (R100). -/
theorem encodeBc6hReserved_of_none {blk : Block} (h : bc6hModeOfId (bc6hSelector blk).1 = none) :
    encodeBc6hReserved (bc6hReservedOf (bc6hSelector blk).1) (blk.extractLsb' 5 123) = blk := by
  have hall : ∀ v : Fin 32, bc6hModeOfId (selectorOfBits v).1 = none → (selectorOfBits v).1 = v.val := by decide
  have hsel : (bc6hSelector blk).1 = memRead blk 0 5 := by
    rw [bc6hSelector_eq] at h ⊢
    exact hall ⟨_, memRead_lt blk 0 5⟩ h
  rw [encodeBc6hReserved, bc6hReservedId_reservedOf h, hsel, memRead_eq_extract, BitVec.ofNat_toNat,
    BitVec.setWidth_eq, BitVec.extractLsb'_append_extractLsb'_eq_extractLsb' (by rfl)]
  exact BitVec.extractLsb'_eq_self

/-- What a BC6H block decodes to is well-formed and encodes to that block (R106). -/
theorem encode_decodeBc6hBlock (blk : Block) :
    (decodeBc6hBlock blk).wf = true ∧ encode (decodeBc6hBlock blk) = .bc6hBlock blk := by
  cases h : bc6hModeOfId (bc6hSelector blk).1 with
  | some m =>
    rw [decodeBc6hBlock_mode h, wf_ofBc6h, encode_ofBc6h, encodeBc6h_fieldsOf h]
    exact ⟨bc6hFieldsOf_wf m blk, rfl⟩
  | none =>
    simp only [decodeBc6hBlock, h]
    rw [wf_ofBc6hReserved, encode_ofBc6hReserved, encodeBc6hReserved_of_none h]
    exact ⟨rfl, rfl⟩

/-! ## The positions of R98 -/

/-- The low bits of a field that a row holds from its bit 0. -/
theorem bc6hVal_mod {m : Bc6hMode} (b : Block) {x : Bc6hField} {lo n : Nat} (hr : ⟨lo, n, x, 0⟩ ∈ bc6hRows m) :
    bc6hVal (bc6hFieldsOf m b) x % 2 ^ n = memRead b lo n := by
  rw [bc6hVal_fieldsOf]
  exact (bc6hRows_layOut m).gather_mod b hr

/-- A field that one row holds whole. -/
theorem bc6hVal_eq {m : Bc6hMode} (b : Block) {x : Bc6hField} {lo n : Nat} (hr : ⟨lo, n, x, 0⟩ ∈ bc6hRows m)
    (hn : n = bc6hWidth (bc6hDesc m) x) : bc6hVal (bc6hFieldsOf m b) x = memRead b lo n := by
  subst hn
  rw [bc6hVal_fieldsOf]
  exact (bc6hRows_layOut m).gather_eq b hr

/-- The rows that R98 says every layout has, from bit 0 of their fields. -/
theorem bc6hRows_fixed (m : Bc6hMode) :
    (⟨5, min (bc6hDesc m).eb 10, .r0, 0⟩ ∈ bc6hRows m ∧ ⟨15, min (bc6hDesc m).eb 10, .g0, 0⟩ ∈ bc6hRows m ∧
      ⟨25, min (bc6hDesc m).eb 10, .b0, 0⟩ ∈ bc6hRows m) ∧
    (⟨35, (bc6hDesc m).stored .r, .r1, 0⟩ ∈ bc6hRows m ∧ ⟨45, (bc6hDesc m).stored .g, .g1, 0⟩ ∈ bc6hRows m ∧
      ⟨55, (bc6hDesc m).stored .b, .b1, 0⟩ ∈ bc6hRows m) ∧
    ⟨(bc6hDesc m).ioff, 128 - (bc6hDesc m).ioff, .index, 0⟩ ∈ bc6hRows m := by
  cases m <;> decide

/-- The rows that R98 says every 2-subset layout has, from bit 0 of their fields. -/
theorem bc6hRows_fixed_of_ns (m : Bc6hMode) (h : (bc6hDesc m).ns = 2) :
    (⟨65, (bc6hDesc m).stored .r, .r2, 0⟩ ∈ bc6hRows m ∧ ⟨71, (bc6hDesc m).stored .r, .r3, 0⟩ ∈ bc6hRows m) ∧
    (⟨41, 4, .g2, 0⟩ ∈ bc6hRows m ∧ ⟨51, 4, .g3, 0⟩ ∈ bc6hRows m ∧ ⟨61, 4, .b2, 0⟩ ∈ bc6hRows m) ∧
    ⟨77, 5, .d, 0⟩ ∈ bc6hRows m := by
  revert h
  cases m <;> decide

/-- Settles O9: each position is that of a row from bit 0 of its field. -/
theorem bc6hFixedPositions : Obligations.Bc6hFixedPositions := by
  unfold Obligations.Bc6hFixedPositions
  intro m b d f
  obtain ⟨⟨hr0, hg0, hb0⟩, ⟨hr1, hg1, hb1⟩, hi⟩ := bc6hRows_fixed m
  refine ⟨bc6hVal_mod b hr0, bc6hVal_mod b hg0, bc6hVal_mod b hb0, bc6hVal_eq b hr1 rfl, bc6hVal_eq b hg1 rfl,
    bc6hVal_eq b hb1 rfl, bc6hVal_eq b hi rfl, fun hns => ?_⟩
  obtain ⟨⟨hr2, hr3⟩, ⟨hg2, hg3, hb2⟩, hd⟩ := bc6hRows_fixed_of_ns m hns
  exact ⟨bc6hVal_eq b hr2 (if_pos hns).symm, bc6hVal_eq b hr3 (if_pos hns).symm, bc6hVal_mod b hg2,
    bc6hVal_mod b hg3, bc6hVal_mod b hb2, bc6hVal_eq b hd (if_pos hns).symm⟩

end Sys2Proof.Machine
end

section
/-! PROOFS, 30_encoding: BC7 blocks (R101 to R105), and every encoding spells one instruction (R74, R82, R106). -/

namespace Sys2Proof.Machine

/-! ## The layout of each mode -/

/-- The width of each field of a BC7 block (R102, R144): 0 for one that the mode does not have. -/
def bc7Width (d : Bc7Desc) : Bc7Field → Nat
  | .part => d.pb
  | .rot => d.rb
  | .isb => d.isb
  | .chan k c => if k < 2 * d.ns then (if c = .a then d.ab else d.cb) else 0
  | .p => d.pCount
  | .idx1 => d.len1
  | .idx2 => d.len2

theorem placeFrom_consecutive (pos : Nat) (takes : List (Bc7Field × Nat)) :
    consecutive pos (placeFrom pos takes) (pos + (takes.map Prod.snd).sum) = true := by
  induction takes generalizing pos with
  | nil => simp [placeFrom, consecutive]
  | cons t takes ih =>
    rw [placeFrom, consecutive_cons]
    refine ⟨rfl, ?_⟩
    rw [List.map_cons, List.sum_cons, ← Nat.add_assoc]
    exact ih (pos + t.2)

/-- The rows are the fields taken, each from its bit 0. -/
theorem mem_placeFrom {pos : Nat} {takes : List (Bc7Field × Nat)} {r : LayoutRow Bc7Field}
    (h : r ∈ placeFrom pos takes) : (r.field, r.len) ∈ takes ∧ r.bit = 0 := by
  induction takes generalizing pos with
  | nil => cases h
  | cons t takes ih =>
    rcases List.mem_cons.1 h with rfl | h
    · exact ⟨List.mem_cons_self, rfl⟩
    · exact ⟨List.mem_cons_of_mem t (ih h).1, (ih h).2⟩

theorem exists_mem_placeFrom (pos : Nat) {takes : List (Bc7Field × Nat)} {x : Bc7Field} {n : Nat}
    (h : (x, n) ∈ takes) : ∃ r ∈ placeFrom pos takes, r.field = x ∧ r.len = n := by
  induction takes generalizing pos with
  | nil => cases h
  | cons t takes ih =>
    rcases List.mem_cons.1 h with rfl | h
    · exact ⟨_, List.mem_cons_self, rfl, rfl⟩
    · obtain ⟨r, hr, hx⟩ := ih (pos + t.2) h
      exact ⟨r, List.mem_cons_of_mem _ hr, hx⟩

/-- Fields taken once each do not share a bit. -/
theorem placeFrom_disjointFields (pos : Nat) {takes : List (Bc7Field × Nat)}
    (h : (takes.map Prod.fst).Nodup) : disjointFields (placeFrom pos takes) := by
  induction takes generalizing pos with
  | nil => exact List.Pairwise.nil
  | cons t takes ih =>
    obtain ⟨hnew, hrest⟩ := List.nodup_cons.1 h
    refine List.Pairwise.cons (fun r hr hf => absurd ?_ hnew) (ih (pos + t.2) hrest)
    exact List.mem_map.2 ⟨_, (mem_placeFrom hr).1, hf.symm⟩

/-- Every field is taken with its width. -/
theorem bc7Takes_width (d : Bc7Desc) : ∀ t ∈ bc7Takes d, t.2 = bc7Width d t.1 := by
  have hchan : ∀ c n, n = (if c = Chan.a then d.ab else d.cb) →
      ∀ t ∈ (List.range (2 * d.ns)).map fun k => (Bc7Field.chan k c, n), t.2 = bc7Width d t.1 := by
    rintro c n rfl
    simp +contextual [bc7Width]
  simp only [bc7Takes, bc7Colors, List.flatMap_cons, List.flatMap_nil, List.forall_mem_append, List.forall_mem_cons,
    List.not_mem_nil, false_implies, implies_true, and_true]
  exact ⟨⟨⟨⟨rfl, rfl, rfl⟩, hchan .r _ rfl, hchan .g _ rfl, hchan .b _ rfl⟩, hchan .a _ rfl⟩, rfl, rfl, rfl⟩

/-- Every field that has bits is taken. -/
theorem mem_bc7Takes {d : Bc7Desc} {x : Bc7Field} (h : 0 < bc7Width d x) : (x, bc7Width d x) ∈ bc7Takes d := by
  cases x with
  | chan k c =>
    have hk : k < 2 * d.ns := by
      by_contra hk
      simp [bc7Width, hk] at h
    cases c <;> simp [bc7Takes, bc7Colors, bc7Width, hk]
  | _ => simp [bc7Takes, bc7Width]

theorem bc7Takes_nodup (m : Bc7Mode) : ((bc7Takes (bc7Desc m)).map Prod.fst).Nodup := by
  cases m <;> decide

theorem bc7Takes_sum (m : Bc7Mode) :
    (bc7Desc m).hdr + ((bc7Takes (bc7Desc m)).map Prod.snd).sum = 128 := by
  cases m <;> rfl

/-- The takes of each mode lay the fields out from its selector to bit 127 (R102, R103). -/
theorem bc7Rows_layOut (m : Bc7Mode) : LaysOut (bc7Rows m) (bc7Desc m).hdr (bc7Width (bc7Desc m)) where
  consecutive := by
    rw [← bc7Takes_sum m]
    exact placeFrom_consecutive _ _
  disjointFields := placeFrom_disjointFields _ (bc7Takes_nodup m)
  inField r hr := by
    obtain ⟨hmem, hbit⟩ := mem_placeFrom hr
    rw [hbit, Nat.zero_add, ← bc7Takes_width _ _ hmem]
  coversField x j hj := by
    obtain ⟨r, hr, hf, hlen⟩ := exists_mem_placeFrom (bc7Desc m).hdr (mem_bc7Takes (Nat.zero_lt_of_lt hj))
    refine ⟨r, hr, hf, ?_⟩
    simpa [LayoutRow.holdsBit, (mem_placeFrom hr).2, hlen] using hj

/-! ## The fields as a record -/

theorem bc7Raw_ext {e e' : Bc7Raw} (h : ∀ c, (e.chan c).toNat = (e'.chan c).toNat) : e = e' := by
  obtain ⟨r, g, b, a⟩ := e
  obtain ⟨r', g', b', a'⟩ := e'
  rw [Bc7Raw.mk.injEq]
  exact ⟨BitVec.eq_of_toNat_eq (h .r), BitVec.eq_of_toNat_eq (h .g), BitVec.eq_of_toNat_eq (h .b),
    BitVec.eq_of_toNat_eq (h .a)⟩

/-- Two records of BC7 fields with the same values are the same. -/
theorem bc7Fields_ext {f g : Bc7Fields} (h : ∀ x, bc7Val f x = bc7Val g x) : f = g := by
  have he : ∀ k, f.endpoint k = g.endpoint k := fun k => bc7Raw_ext fun c => h (.chan k c)
  obtain ⟨_, _, _, _, _, _, _, _, _, _, _, _⟩ := f
  obtain ⟨_, _, _, _, _, _, _, _, _, _, _, _⟩ := g
  rw [Bc7Fields.mk.injEq]
  exact ⟨BitVec.eq_of_toNat_eq (h .part), BitVec.eq_of_toNat_eq (h .rot), BitVec.eq_of_toNat_eq (h .isb),
    he 0, he 1, he 2, he 3, he 4, he 5, BitVec.eq_of_toNat_eq (h .p), BitVec.eq_of_toNat_eq (h .idx1),
    BitVec.eq_of_toNat_eq (h .idx2)⟩

/-- The bits the record has for a field. -/
def bc7Capacity : Bc7Field → Nat
  | .part | .p => 6
  | .rot => 2
  | .isb => 1
  | .chan _ _ => 8
  | .idx1 | .idx2 => 63

theorem bc7Width_le (m : Bc7Mode) (x : Bc7Field) : bc7Width (bc7Desc m) x ≤ bc7Capacity x := by
  cases x with
  | chan k c =>
    have hab : (bc7Desc m).ab ≤ 8 ∧ (bc7Desc m).cb ≤ 8 := by cases m <;> decide
    simp only [bc7Width, bc7Capacity]
    split_ifs <;> omega
  | part | rot | isb | p | idx1 | idx2 => cases m <;> decide

/-- A BC7 mode has 1, 2 or 3 subsets (R144). -/
theorem bc7Desc_ns (m : Bc7Mode) : (bc7Desc m).ns = 1 ∨ (bc7Desc m).ns = 2 ∨ (bc7Desc m).ns = 3 := by
  cases m <;> decide

/-- No mode stores an endpoint above the sixth. -/
theorem bc7Width_chan_high (m : Bc7Mode) (k : Nat) (c : Chan) :
    bc7Width (bc7Desc m) (.chan (k + 6) c) = 0 := by
  have := bc7Desc_ns m
  rw [bc7Width, if_neg (by omega)]

/-- Every gathered field fits the record, so the record holds it whole. -/
theorem bc7Val_fieldsOf (m : Bc7Mode) (blk : Block) (x : Bc7Field) :
    bc7Val (bc7FieldsOf m blk) x = gather blk (bc7Rows m) x := by
  have hlt := (bc7Rows_layOut m).gather_lt blk x
  have hcap : gather blk (bc7Rows m) x % 2 ^ bc7Capacity x = gather blk (bc7Rows m) x :=
    Nat.mod_eq_of_lt (hlt.trans_le (Nat.pow_le_pow_right (by decide) (bc7Width_le m x)))
  rw [← hcap]
  cases x with
  | part | rot | isb | p | idx1 | idx2 => exact BitVec.toNat_ofNat _ _
  | chan k c =>
    match k with
    | 0 | 1 | 2 | 3 | 4 | 5 => cases c <;> exact BitVec.toNat_ofNat _ _
    | k + 6 =>
      rw [bc7Width_chan_high] at hlt
      rw [Nat.lt_one_iff.1 hlt]
      cases c <;> rfl

theorem bc7Raw_fits_iff (d : Bc7Desc) (e : Bc7Raw) :
    e.fits d = true ↔ ∀ c, (e.chan c).toNat < 2 ^ (if c = .a then d.ab else d.cb) := by
  simp only [Bc7Raw.fits, Bool.and_eq_true, decide_eq_true_eq]
  constructor
  · rintro ⟨⟨⟨hr, hg⟩, hb⟩, ha⟩ c
    cases c <;> assumption
  · exact fun h => ⟨⟨⟨h .r, h .g⟩, h .b⟩, h .a⟩

theorem bc7Raw_eq_zero_iff (e : Bc7Raw) : e = ⟨0, 0, 0, 0⟩ ↔ ∀ c, (e.chan c).toNat < 2 ^ 0 := by
  constructor
  · rintro rfl c
    cases c <;> decide
  · intro h
    refine bc7Raw_ext fun c => ?_
    rw [Nat.lt_one_iff.1 (h c)]
    cases c <;> rfl

/-- The endpoints a mode does not store are 0 (R102). -/
theorem bc7Fields_absentZero_iff (m : Bc7Mode) (f : Bc7Fields) :
    f.absentZero (bc7Desc m) = true ↔ ∀ k, 2 * (bc7Desc m).ns ≤ k → f.endpoint k = ⟨0, 0, 0, 0⟩ := by
  simp only [Bc7Fields.absentZero, Bool.and_eq_true, Bool.or_eq_true, decide_eq_true_eq, beq_iff_eq]
  constructor
  · rintro ⟨h23, h45⟩ k hk
    have hns := bc7Desc_ns m
    match k with
    | 0 | 1 => omega
    | 2 => exact (h23.resolve_left (by omega)).1
    | 3 => exact (h23.resolve_left (by omega)).2
    | 4 => exact (h45.resolve_left (by omega)).1
    | 5 => exact (h45.resolve_left (by omega)).2
    | k + 6 => rfl
  · intro h
    refine ⟨or_iff_not_imp_left.2 fun hns => ?_, or_iff_not_imp_left.2 fun hns => ?_⟩
    · exact ⟨h 2 (by omega), h 3 (by omega)⟩
    · exact ⟨h 4 (by omega), h 5 (by omega)⟩

/-- A channel fits its width when a stored one fits CB or AB bits and one that is not stored is 0. -/
theorem bc7Val_chan_lt_iff (m : Bc7Mode) (f : Bc7Fields) :
    (∀ k c, bc7Val f (.chan k c) < 2 ^ bc7Width (bc7Desc m) (.chan k c)) ↔
      (∀ k, (f.endpoint k).fits (bc7Desc m) = true) ∧
      ∀ k, 2 * (bc7Desc m).ns ≤ k → f.endpoint k = ⟨0, 0, 0, 0⟩ := by
  simp only [bc7Raw_fits_iff, bc7Raw_eq_zero_iff, bc7Val, bc7Width]
  constructor
  · refine fun h => ⟨fun k c => (h k c).trans_le (Nat.pow_le_pow_right (by decide) ?_), fun k hk c => ?_⟩
    · split_ifs <;> omega
    · simpa only [Nat.not_lt.2 hk, if_false] using h k c
  · rintro ⟨hfits, hzero⟩ k c
    by_cases hk : k < 2 * (bc7Desc m).ns
    · simpa only [hk, if_true] using hfits k c
    · simpa only [hk, if_false] using hzero k (Nat.le_of_not_lt hk) c

/-- Well-formed is: each field fits its width. -/
theorem bc7Fields_wf_iff (m : Bc7Mode) (f : Bc7Fields) :
    f.wf (bc7Desc m) = true ↔ ∀ x, bc7Val f x < 2 ^ bc7Width (bc7Desc m) x := by
  have hchan := bc7Val_chan_lt_iff m f
  simp only [Bc7Fields.wf, Bc7Fields.headFits, Bc7Fields.indexFits, Bool.and_eq_true, decide_eq_true_eq,
    bc7Fields_absentZero_iff]
  constructor
  · rintro ⟨⟨⟨⟨⟨⟨⟨⟨⟨⟨⟨hpart, hrot⟩, hisb⟩, hp⟩, h0⟩, h1⟩, h2⟩, h3⟩, h4⟩, h5⟩, habsent⟩, hidx1, hidx2⟩ x
    cases x with
    | part => exact hpart
    | rot => exact hrot
    | isb => exact hisb
    | p => exact hp
    | idx1 => exact hidx1
    | idx2 => exact hidx2
    | chan k c =>
      refine hchan.2 ⟨fun k => ?_, habsent⟩ k c
      match k with
      | 0 => exact h0
      | 1 => exact h1
      | 2 => exact h2
      | 3 => exact h3
      | 4 => exact h4
      | 5 => exact h5
      | k + 6 =>
        have hns := bc7Desc_ns m
        rw [habsent (k + 6) (by omega), bc7Raw_fits_iff]
        exact fun c => by cases c <;> exact Nat.two_pow_pos _
  · intro h
    obtain ⟨hfits, habsent⟩ := hchan.1 fun k c => h (.chan k c)
    exact ⟨⟨⟨⟨⟨⟨⟨⟨⟨⟨⟨h .part, h .rot⟩, h .isb⟩, h .p⟩, hfits 0⟩, hfits 1⟩, hfits 2⟩, hfits 3⟩, hfits 4⟩, hfits 5⟩,
      habsent⟩, h .idx1, h .idx2⟩

/-! ## The selector -/

/-- The BC7 selector is the position of the lowest set bit of byte 0 (R101). -/
theorem bc7Selector_eq_iff (blk : Block) {m : Nat} (hm : m < 8) :
    bc7Selector blk = m ↔ blk.getLsbD m = true ∧ ∀ k, k < m → blk.getLsbD k = false := by
  have hfind : bc7Selector blk = m ↔ (List.range 8).find? (fun k => blk.getLsbD k) = some m := by
    rw [bc7Selector]
    cases (List.range 8).find? fun k => blk.getLsbD k with
    | none => simp; omega
    | some i => simp
  rw [hfind, List.find?_range_eq_some]
  simp [hm]

theorem bc7Selector_eq_eight_iff (blk : Block) :
    bc7Selector blk = 8 ↔ ∀ k, k < 8 → blk.getLsbD k = false := by
  have hfind : bc7Selector blk = 8 ↔ (List.range 8).find? (fun k => blk.getLsbD k) = none := by
    rw [bc7Selector]
    cases h : (List.range 8).find? fun k => blk.getLsbD k with
    | none => simp
    | some i =>
      have := List.mem_range.1 (List.mem_of_find?_eq_some h)
      simp
      omega
  rw [hfind, List.find?_range_eq_none]
  simp

theorem bc7Selector_le (blk : Block) : bc7Selector blk ≤ 8 := by
  rw [bc7Selector]
  cases h : (List.range 8).find? fun k => blk.getLsbD k with
  | none => exact le_rfl
  | some i => exact (List.mem_range.1 (List.mem_of_find?_eq_some h)).le

/-- Byte 0 is 0 exactly when it has no set bit. -/
theorem byte0_eq_zero_iff (blk : Block) : blk.extractLsb' 0 8 = 0 ↔ ∀ k, k < 8 → blk.getLsbD k = false := by
  constructor
  · intro h k hk
    have hbit : (blk.extractLsb' 0 8).getLsbD k = false := by rw [h]; exact BitVec.getLsbD_zero
    simpa [BitVec.getLsbD_extractLsb', hk] using hbit
  · intro h
    apply BitVec.eq_of_getLsbD_eq
    intro k hk
    simp [BitVec.getLsbD_extractLsb', h k hk]

/-- A block has a mode's selector exactly when its header is MODE zero bits and a one (R101). -/
theorem bc7Selector_mode_iff (blk : Block) (m : Bc7Mode) :
    bc7Selector blk = bc7ModeId m ↔ memRead blk 0 (bc7Desc m).hdr = 2 ^ bc7ModeId m := by
  have hm : bc7ModeId m < 8 := by cases m <;> decide
  have hhdr : (bc7Desc m).hdr = bc7ModeId m + 1 := by cases m <;> rfl
  rw [bc7Selector_eq_iff blk hm, hhdr]
  generalize bc7ModeId m = n
  constructor
  · rintro ⟨hset, hlow⟩
    apply Nat.eq_of_testBit_eq
    intro j
    rw [memRead_testBit, Nat.zero_add, Nat.testBit_two_pow]
    rcases Nat.lt_trichotomy j n with hj | rfl | hj
    · simp [hlow j hj, (Nat.ne_of_lt hj).symm]
    · simp [hset]
    · simp [Nat.not_lt.2 hj, Nat.ne_of_lt hj]
  · intro h
    have hbit : ∀ j, j < n + 1 → blk.getLsbD j = decide (n = j) := by
      intro j hj
      rw [← Nat.testBit_two_pow, ← h, memRead_testBit, Nat.zero_add]
      simp [hj]
    refine ⟨by simp [hbit n], fun k hk => ?_⟩
    rw [hbit k (by omega)]
    simp
    omega

theorem decodeBc7Block_mode {blk : Block} {m : Bc7Mode} (h : bc7Selector blk = bc7ModeId m) :
    decodeBc7Block blk = .ofBc7 m (bc7FieldsOf m blk) := by
  rw [decodeBc7Block, h, bc7ModeOfId_modeId]

theorem decodeBc7Block_reserved {blk : Block} (h : bc7Selector blk = 8) :
    decodeBc7Block blk = .bc7Reserved (blk.extractLsb' 8 120) := by
  rw [decodeBc7Block, h]
  rfl

/-- Settles O8: `find?` over the bits of byte 0 finds the lowest set one. -/
theorem bc7SelectorIsTheLowestSetBit : Obligations.Bc7SelectorIsTheLowestSetBit := by
  unfold Obligations.Bc7SelectorIsTheLowestSetBit
  intro b
  refine ⟨fun m hm => bc7Selector_eq_iff b hm, ?_, bc7Selector_le b, fun m h => ⟨decodeBc7Block_mode h, ?_⟩,
    decodeBc7Block_reserved⟩
  · rw [bc7Selector_eq_eight_iff, byte0_eq_zero_iff]
  · cases m <;> rfl

/-! ## Encoding and decoding a block -/

theorem encode_ofBc7 (m : Bc7Mode) (f : Bc7Fields) : encode (.ofBc7 m f) = .bc7Block (encodeBc7 m f) := by
  cases m <;> rfl

theorem wf_ofBc7 (m : Bc7Mode) (f : Bc7Fields) : (Instr.ofBc7 m f).wf = f.wf (bc7Desc m) := by
  cases m <;> rfl

/-- The instructions whose encoding is a BC7 block are those of the 8 modes and the reserved mode. -/
theorem bc7Instr_cases {i : Instr} {b : Block} (h : encode i = .bc7Block b) :
    (∃ m f, i = .ofBc7 m f) ∨ ∃ rest, i = .bc7Reserved rest := by
  cases i with
  | bc7Mode0 f => exact .inl ⟨.m0, f, rfl⟩
  | bc7Mode1 f => exact .inl ⟨.m1, f, rfl⟩
  | bc7Mode2 f => exact .inl ⟨.m2, f, rfl⟩
  | bc7Mode3 f => exact .inl ⟨.m3, f, rfl⟩
  | bc7Mode4 f => exact .inl ⟨.m4, f, rfl⟩
  | bc7Mode5 f => exact .inl ⟨.m5, f, rfl⟩
  | bc7Mode6 f => exact .inl ⟨.m6, f, rfl⟩
  | bc7Mode7 f => exact .inl ⟨.m7, f, rfl⟩
  | bc7Reserved rest => exact .inr ⟨rest, rfl⟩
  | _ => cases h

theorem memRead_encodeBc7 (m : Bc7Mode) (f : Bc7Fields) :
    memRead (encodeBc7 m f) 0 (bc7Desc m).hdr = 2 ^ bc7ModeId m := by
  rw [memRead, Nat.shiftRight_zero, ← Nat.and_two_pow_sub_one_eq_mod]
  exact Laws.OpcodeBits.bc7_bits m f

/-- The fields of an encoded block are those it was encoded from. -/
theorem bc7FieldsOf_encode {m : Bc7Mode} {f : Bc7Fields} (h : f.wf (bc7Desc m) = true) :
    bc7FieldsOf m (encodeBc7 m f) = f := by
  have hsel : 2 ^ bc7ModeId m < 2 ^ (bc7Desc m).hdr := by cases m <;> decide
  refine bc7Fields_ext fun x => ?_
  rw [bc7Val_fieldsOf]
  exact (bc7Rows_layOut m).gather_scatter hsel ((bc7Fields_wf_iff m f).1 h) x

theorem decodeBc7Block_encode {m : Bc7Mode} {f : Bc7Fields} (h : f.wf (bc7Desc m) = true) :
    decodeBc7Block (encodeBc7 m f) = .ofBc7 m f := by
  rw [decodeBc7Block_mode ((bc7Selector_mode_iff _ m).2 (memRead_encodeBc7 m f)), bc7FieldsOf_encode h]

theorem decodeBc7Block_encodeReserved (rest : BitVec 120) :
    decodeBc7Block (rest ++ (0 : BitVec 8)) = .bc7Reserved rest := by
  have hlow : (rest ++ (0 : BitVec 8) : Block).extractLsb' 0 8 = 0 := by
    rw [BitVec.extractLsb'_append_eq_of_add_le (by decide), BitVec.extractLsb'_eq_self]
  have hrest : (rest ++ (0 : BitVec 8) : Block).extractLsb' 8 120 = rest := BitVec.extractLsb'_append_eq_left
  have hsel := (bc7Selector_eq_eight_iff _).2 ((byte0_eq_zero_iff _).1 hlow)
  rw [decodeBc7Block_reserved hsel, hrest]

/-- Settles O4: the encoder's block has the selector of the instruction, and each field is gathered from where it
was scattered. -/
theorem bc7BlocksSurviveEncoding : Obligations.Bc7BlocksSurviveEncoding := by
  unfold Obligations.Bc7BlocksSurviveEncoding
  intro i b hwf h
  obtain ⟨m, f, rfl⟩ | ⟨rest, rfl⟩ := bc7Instr_cases h
  · rw [encode_ofBc7] at h
    rw [wf_ofBc7] at hwf
    obtain rfl := Encoded.bc7Block.inj h
    exact decodeBc7Block_encode hwf
  · obtain rfl := Encoded.bc7Block.inj h
    exact decodeBc7Block_encodeReserved rest

theorem bc7FieldsOf_wf (m : Bc7Mode) (blk : Block) : (bc7FieldsOf m blk).wf (bc7Desc m) = true := by
  refine (bc7Fields_wf_iff m _).2 fun x => ?_
  rw [bc7Val_fieldsOf]
  exact (bc7Rows_layOut m).gather_lt blk x

/-- A block with a mode is the encoding of its fields. -/
theorem encodeBc7_fieldsOf {m : Bc7Mode} {blk : Block} (h : bc7Selector blk = bc7ModeId m) :
    encodeBc7 m (bc7FieldsOf m blk) = blk := by
  rw [encodeBc7, ← (bc7Selector_mode_iff blk m).1 h]
  exact (bc7Rows_layOut m).scatter_gather (bc7Val_fieldsOf m blk)

/-- A block without a mode is its bits 127..8 above a byte 0 of 0 (R105). -/
theorem append_zero_of_reserved {blk : Block} (h : bc7Selector blk = 8) :
    blk.extractLsb' 8 120 ++ (0 : BitVec 8) = blk := by
  rw [← (byte0_eq_zero_iff blk).2 ((bc7Selector_eq_eight_iff blk).1 h),
    BitVec.extractLsb'_append_extractLsb'_eq_extractLsb' (by rfl)]
  exact BitVec.extractLsb'_eq_self

/-- A selector is that of a mode, or 8 (R101). -/
theorem bc7Selector_cases (blk : Block) : (∃ m, bc7Selector blk = bc7ModeId m) ∨ bc7Selector blk = 8 := by
  have hall : ∀ n : Fin 9, (∃ m, bc7ModeOfId n = some m) ∨ n.val = 8 := by
    simp only [← Option.isSome_iff_exists]
    decide
  refine (hall ⟨_, Nat.lt_succ_of_le (bc7Selector_le blk)⟩).imp ?_ id
  rintro ⟨m, hm⟩
  exact ⟨m, (bc7ModeId_of_modeOfId _ m hm).symm⟩

/-- What a BC7 block decodes to is well-formed and encodes to that block (R106). -/
theorem encode_decodeBc7Block (blk : Block) :
    (decodeBc7Block blk).wf = true ∧ encode (decodeBc7Block blk) = .bc7Block blk := by
  obtain ⟨m, h⟩ | h := bc7Selector_cases blk
  · rw [decodeBc7Block_mode h, wf_ofBc7, encode_ofBc7, encodeBc7_fieldsOf h]
    exact ⟨bc7FieldsOf_wf m blk, rfl⟩
  · rw [decodeBc7Block_reserved h, encode, append_zero_of_reserved h]
    exact ⟨rfl, rfl⟩

/-! ## Every encoding -/

/-- A command has an encoding, whatever its operands are. -/
theorem wf_commandOf (w : Word) : (commandOf w).wf = true := by
  unfold commandOf
  split <;> rfl

/-- Settles O5: each space's decoder keeps every bit that its encoder writes. -/
theorem everyEncodingSpellsOneInstruction : Obligations.EveryEncodingSpellsOneInstruction := by
  unfold Obligations.EveryEncodingSpellsOneInstruction
  intro x i h
  cases x with
  | command w =>
    obtain ⟨hres, rfl⟩ := decodeCommand_eq_ok.1 h
    exact ⟨wf_commandOf w, encode_commandOf hres⟩
  | bc6hBlock b =>
    obtain rfl := Except.ok.inj h
    exact encode_decodeBc6hBlock b
  | bc7Block b =>
    obtain rfl := Except.ok.inj h
    exact encode_decodeBc7Block b

end Sys2Proof.Machine
end

section
/-! PROOFS, 30_encoding: the field positions of R103. -/

namespace Sys2Proof.Machine

/-- A row of `rows` holds the `n` bits of field `x` from block bit `lo`, or the field has no bit. -/
def heldAt (rows : List (LayoutRow Bc7Field)) (x : Bc7Field) (lo n : Nat) : Bool :=
  n == 0 || rows.contains ⟨lo, n, x, 0⟩

theorem bc7Val_of_heldAt {m : Bc7Mode} {x : Bc7Field} {lo n : Nat} (b : Block)
    (h : heldAt (bc7Rows m) x lo n = true) (hn : bc7Width (bc7Desc m) x = n) :
    bc7Val (bc7FieldsOf m b) x = memRead b lo n := by
  subst hn
  rw [bc7Val_fieldsOf]
  simp only [heldAt, Bool.or_eq_true, beq_iff_eq, List.contains_iff_mem] at h
  obtain h0 | hr := h
  · have hlt := (bc7Rows_layOut m).gather_lt b x
    rw [h0] at hlt ⊢
    rw [memRead_zero]
    exact Nat.lt_one_iff.1 hlt
  · exact (bc7Rows_layOut m).gather_eq b hr

/-- The rows of mode `m` are at the block bits a row of R103's table prints. -/
def rowsHeldAt (m : Bc7Mode) (part rot isb r g bl a p i1 i2 : Nat) : Bool :=
  let d := bc7Desc m
  let at' := heldAt (bc7Rows m)
  at' .part part d.pb && at' .rot rot d.rb && at' .isb isb d.isb && at' .p p d.pCount &&
  at' .idx1 i1 d.len1 && at' .idx2 i2 d.len2 &&
  (List.range (2 * d.ns)).all fun k =>
    at' (.chan k .r) (r + k * d.cb) d.cb && at' (.chan k .g) (g + k * d.cb) d.cb &&
    at' (.chan k .b) (bl + k * d.cb) d.cb && at' (.chan k .a) (a + k * d.ab) d.ab

theorem bc7FieldsAt_of_rows {m : Bc7Mode} {part rot isb r g bl a p i1 i2 : Nat}
    (h : rowsHeldAt m part rot isb r g bl a p i1 i2 = true) (b : Block) :
    bc7FieldsAt m part rot isb r g bl a p i1 i2 b := by
  simp only [rowsHeldAt, Bool.and_eq_true, List.all_eq_true, List.mem_range] at h
  obtain ⟨⟨⟨⟨⟨⟨hpart, hrot⟩, hisb⟩, hp⟩, hidx1⟩, hidx2⟩, hchan⟩ := h
  refine ⟨bc7Val_of_heldAt b hpart rfl, bc7Val_of_heldAt b hrot rfl, bc7Val_of_heldAt b hisb rfl,
    fun k hk => ?_, bc7Val_of_heldAt b hp rfl, bc7Val_of_heldAt b hidx1 rfl, bc7Val_of_heldAt b hidx2 rfl⟩
  obtain ⟨⟨⟨hr, hg⟩, hb⟩, ha⟩ := hchan k hk
  exact ⟨bc7Val_of_heldAt b hr (if_pos hk), bc7Val_of_heldAt b hg (if_pos hk),
    bc7Val_of_heldAt b hb (if_pos hk), bc7Val_of_heldAt b ha (if_pos hk)⟩

/-- Settles O10: the sequential takes of each mode put its fields at the positions that R103 prints. -/
theorem bc7FieldPositions : Obligations.Bc7FieldPositions := by
  unfold Obligations.Bc7FieldPositions
  intro b
  exact ⟨bc7FieldsAt_of_rows (by decide) b, bc7FieldsAt_of_rows (by decide) b, bc7FieldsAt_of_rows (by decide) b,
    bc7FieldsAt_of_rows (by decide) b, bc7FieldsAt_of_rows (by decide) b, bc7FieldsAt_of_rows (by decide) b,
    bc7FieldsAt_of_rows (by decide) b, bc7FieldsAt_of_rows (by decide) b⟩

end Sys2Proof.Machine
end

section
/-! PROOFS, 30_encoding: what the block instructions and the commands that run them do (R80, R283, R284). -/

namespace Sys2Proof.Machine

/-! ## Reserved selectors -/

/-- A BC6H block without a mode fills OUTF with zeros and sets INVALID (R100, R283). -/
theorem runBc6h_invalid (id : Nat) (signed : Bool) (s : State) :
    ∃ t, runBc6h (parseInvalid id signed) s = .next t ∧ DecodedBc6h s t true ∧ ∀ j : Fin 48, t.outf[j] = 0 :=
  ⟨_, runBc6h_eq _ s, ⟨rfl, invalidWritten_statusWithInvalid s.status true⟩,
    fun j => tabulate_getElem 48 (fun _ => 0) j j.isLt⟩

/-- A BC7 block without a mode fills OUTB with zeros and sets INVALID (R105, R283). -/
theorem runBc7_invalid (s : State) :
    ∃ t, runBc7 (parseInvalid 8 false) s = .next t ∧ DecodedBc7 s t true ∧ ∀ j : Fin 64, t.outb[j] = 0 :=
  ⟨_, runBc7_eq _ s, ⟨rfl, invalidWritten_statusWithInvalid s.status true⟩,
    fun j => tabulate_getElem 64 (fun _ => 0) j j.isLt⟩

/-- Settles O38: every one of them is a run of the invalid parse. -/
theorem invalidSelectorsZeroFill : Obligations.InvalidSelectorsZeroFill := by
  unfold Obligations.InvalidSelectorsZeroFill
  refine ⟨fun s k rest => ?_, fun s h => ⟨?_, ?_⟩, fun s rest => ?_, fun s h => ?_⟩
  · rw [exec_ofBc6hReserved]
    exact runBc6h_invalid _ _ s
  · rw [exec_decbc6u, decodeBlkBc6h_invalid _ s h]
    exact runBc6h_invalid _ _ s
  · rw [exec_decbc6s, decodeBlkBc6h_invalid _ s h]
    exact runBc6h_invalid _ _ s
  · rw [exec_bc7Reserved]
    exact runBc7_invalid s
  · have hsel : bc7Selector s.blk = 8 := (bc7Selector_eq_eight_iff _).2 ((byte0_eq_zero_iff _).1 h)
    rw [exec_decbc7_invalid s (by rw [hsel]; rfl)]
    exact runBc7_invalid s

/-! ## BC6H texels -/

/-- A 2-subset partition has no subset above 1 (R147). -/
theorem romP2_lt (p i : Nat) (hi : i < 16) : romP2 p i < 2 := by
  have hrows : ∀ row ∈ romP2Rows, ∀ i < 16, rowTexel row i < 2 := by decide
  rw [romP2, List.getD_eq_getElem?_getD]
  cases h : romP2Rows[p]? with
  | none => simp [rowTexel]
  | some row => exact hrows row (List.mem_of_getElem? h) i hi

/-- The subset of a texel is one of the block's (R152). -/
theorem partitionTable_lt (m : Bc6hMode) (p i : Nat) (hi : i < 16) :
    partitionTable (bc6hDesc m).ns p i < (bc6hDesc m).ns := by
  have hns : (bc6hDesc m).ns = 1 ∨ (bc6hDesc m).ns = 2 := by cases m <;> decide
  obtain h | h := hns
  · rw [h]; exact Nat.one_pos
  · rw [h]; exact romP2_lt p i hi

theorem parseBc6h_endpoint_chan (m : Bc6hMode) (signed : Bool) (f : Bc6hFields) {k c : Nat}
    (hk : k < 2 * (bc6hDesc m).ns) :
    ((parseBc6h m signed f).endpoint k).chan (bc6hChan c) = bc6hChannel (bc6hDesc m) signed f k (bc6hChan c) := by
  have he : (parseBc6h m signed f).endpoint k = bc6hEndpoint (bc6hDesc m) signed f k := by
    simp [ParsedBlock.endpoint, parseBc6h, hk]
  rw [he]
  match c with
  | 0 | 1 => rfl
  | c + 2 => rfl

theorem parseBc6h_ns (m : Bc6hMode) (signed : Bool) (f : Bc6hFields) :
    (parseBc6h m signed f).ns.toNat = (bc6hDesc m).ns := by
  cases m <;> rfl

theorem parseBc6h_part (m : Bc6hMode) (signed : Bool) (f : Bc6hFields) :
    (parseBc6h m signed f).part.toNat = if (bc6hDesc m).ns = 2 then f.d.toNat else 0 := by
  simp only [parseBc6h]
  split
  · exact BitVec.toNat_setWidth_of_le (by decide)
  · rfl

theorem parseBc6h_idx1 (m : Bc6hMode) (signed : Bool) (f : Bc6hFields) :
    (parseBc6h m signed f).idx1.toNat = f.index.toNat :=
  BitVec.toNat_setWidth_of_le (by decide)

/-- The formatter's word for a texel of a valid block is the one of R284. -/
theorem bc6hElement_parse (enc : NegEncoding) (m : Bc6hMode) (signed : Bool) (f : Bc6hFields) {i : Nat} (c : Nat)
    (hi : i < 16) :
    bc6hElement (bc6hDesc m) enc (parseBc6h m signed f) i (bc6hChan c) =
      bc6hTexel enc signed m f i (bc6hChan c) := by
  have hsub := partitionTable_lt m (if (bc6hDesc m).ns = 2 then f.d.toNat else 0) i hi
  simp only [bc6hElement, bc6hTexel, bc6hU, bc6hIndex, ParsedBlock.subset, parseBc6h_ns, parseBc6h_part,
    parseBc6h_idx1]
  rw [parseBc6h_endpoint_chan m signed f (by omega), parseBc6h_endpoint_chan m signed f (by omega)]
  rfl

/-- A valid BC6H block writes every texel to OUTF and clears INVALID (R282, R284). -/
theorem runBc6h_valid (m : Bc6hMode) (signed : Bool) (f : Bc6hFields) (s : State) :
    ∃ t, runBc6h (parseBc6h m signed f) s = .next t ∧ DecodedBc6h s t false ∧
      ∀ (i : Fin 16) (c : Fin 3), t.outf[3 * i.val + c.val] =
        bc6hTexel s.sf16Neg signed m f i.val (bc6hChan c.val) := by
  refine ⟨_, runBc6h_eq _ s, ⟨rfl, invalidWritten_statusWithInvalid s.status false⟩, fun i c => ?_⟩
  have hdiv : (3 * i.val + c.val) / 3 = i.val := by omega
  have hmod : (3 * i.val + c.val) % 3 = c.val := by omega
  rw [← bc6hElement_parse s.sf16Neg m signed f c.val i.isLt]
  refine (tabulate_getElem 48 _ (3 * i.val + c.val) (by omega)).trans ?_
  simp only [hdiv, hmod]

/-- Settles O40: the parse of a valid block holds what R284 reads, and the decode commands run what BLK decodes
to. -/
theorem blocksRunAsTheirCommand : Obligations.BlocksRunAsTheirCommand := by
  unfold Obligations.BlocksRunAsTheirCommand
  refine ⟨fun s m f => ?_, fun s h => ?_, fun s h => ?_, fun s => (exec_decodeBc7Block s).symm⟩
  · rw [exec_ofBc6h]
    exact runBc6h_valid m (blockSigned s) f s
  · have hs : blockSigned s = true := decide_eq_true h
    rw [exec_decodeBc6hBlock, hs, exec_decbc6s]
  · have hs : blockSigned s = false := decide_eq_false h
    rw [exec_decodeBc6hBlock, hs, exec_decbc6u]

end Sys2Proof.Machine
end

section
/-! PROOFS, 40_bit_cursor: the cursor commands RDBIT and RDBITS (R122, R124), and the words and blocks the spec
prints. -/

namespace Sys2Proof.Machine

/-! ## The cursor read, bit by bit -/

/-- A cursor read of one bit more adds that bit above the others (R121). -/
theorem memRead_succ (blk : Block) (off n : Nat) :
    memRead blk off (n + 1) = memRead blk off n + (blk.getLsbD (off + n)).toNat * 2 ^ n := by
  rw [memRead, memRead, Nat.mod_pow_succ, BitVec.getLsbD, ← Nat.testBit_shiftRight, Nat.toNat_testBit, Nat.mul_comm]

/-- A cursor read is the sum of its bits, the lowest first (R51, R121). -/
theorem memRead_eq_sum (blk : Block) (off n : Nat) :
    memRead blk off n = ((List.range n).map fun k => (blk.getLsbD (off + k)).toNat * 2 ^ k).sum := by
  induction n with
  | zero => exact memRead_zero blk off
  | succ n ih => simp [memRead_succ, ih, List.range_succ]

/-! ## The words of a format -/

/-- A word of opcode `op` spells the instruction of its opcode when the reserved field of that format is 0, and
none otherwise (R74, R75). -/
theorem spells_of_reservedField {w : Word} {i : Instr} {op : BitVec 4} {lo n : Nat} (hop : w.extractLsb' 0 4 = op)
    (hm : reservedMask op.toNat = bitsMask lo n) (h : lo + n ≤ 32) (hi : opcode w = op.toNat → commandOf w = i) :
    Spells w (w.extractLsb' lo n = 0) i := by
  intro s rest hf
  have hop' : opcode w = op.toNat := congrArg BitVec.toNat hop
  refine ⟨fun hres => ?_, fun hres => ?_⟩
  · exact step_cmdWrite s rest hf (decodeCommand_of_fields op lo n hm h hop hres hi)
  · exact step_cmdWrite_rejected s rest hf ((rejected_iff hop' hm h).2 hres)

/-! ## The obligations -/

/-- Settles O14: the read of one bit is that bit, and RDBIT reserves bits 31:11. -/
theorem rdbitReadsOneBit : Obligations.RdbitReadsOneBit := by
  unfold Obligations.RdbitReadsOneBit
  refine ⟨fun s off => ?_, fun w hop => spells_of_reservedField hop rfl le_rfl commandOf_rdbit⟩
  rw [exec_rdbit, memRead_one]
  cases s.blk.getLsbD off.toNat <;> rfl

/-- Settles O15: the read of a field is the sum of its bits, every other OFF and LEN fails the range check, and
RDBITS reserves bits 31:18. -/
theorem rdbitsReadsTheField : Obligations.RdbitsReadsTheField := by
  unfold Obligations.RdbitsReadsTheField
  refine ⟨fun s off len hpos hlen hend => ?_, fun s off len hout => ?_,
    fun w hop => spells_of_reservedField hop rfl le_rfl commandOf_rdbits⟩
  · rw [exec_rdbits_inRange off len s ((readInRange_iff _ _).2 ⟨hpos, hlen, hend⟩), memRead_eq_sum]
    rfl
  · have hrange : readInRange off.toNat len.toNat = false := by
      rw [← Bool.not_eq_true, readInRange_iff]
      omega
    rw [exec_rdbits_outOfRange off len s hrange]
    exact faultWith_faults .readRange s

/-- Settles O1: each printed word or block is the encoding of its instruction, so the round trips of O2, O3 and O4
give what it decodes to; the rejected word has a bit of RDBITS's reserved mask. -/
theorem printedWordsDecode : Obligations.PrintedWordsDecode := by
  unfold Obligations.PrintedWordsDecode
  have command {i : Instr} {w : Word} (h : encode i = .command w) : decodeCommand w = .ok i :=
    commandsSurviveEncoding i w h
  exact ⟨command rfl, command rfl, command rfl, command rfl, command rfl, command rfl, command rfl, command rfl,
    command rfl, command rfl, command rfl, command rfl, command rfl, decodeCommand_eq_error.2 (by decide),
    bc6hBlocksSurviveEncoding _ _ rfl rfl, bc7BlocksSurviveEncoding _ _ rfl rfl⟩

end Sys2Proof.Machine
end

section
/-! PROOFS, 41_mode_partition_rom: the mode, partition and anchor tables (R141 to R151), and the commands that report
them (R155, R156). -/

namespace Sys2Proof.Machine

/-! ## Mode descriptors -/

theorem bc6hDesc_subsets (m : Bc6hMode) :
    ((bc6hDesc m).ns = 2 ∧ (bc6hDesc m).pbits = 5) ∨ ((bc6hDesc m).ns = 1 ∧ (bc6hDesc m).pbits = 0) := by
  cases m <;> decide

theorem bc6hDesc_eb (m : Bc6hMode) : 6 ≤ (bc6hDesc m).eb ∧ (bc6hDesc m).eb ≤ 16 := by
  cases m <;> decide

theorem bc6hDesc_delta (m : Bc6hMode) (h : (bc6hDesc m).transformed = true) {c : Chan} (hc : c ≠ .a) :
    4 ≤ (bc6hDesc m).delta c ∧ (bc6hDesc m).delta c ≤ (bc6hDesc m).eb := by
  revert h
  cases c with
  | a => exact absurd rfl hc
  | r | g | b => cases m <;> decide

theorem bc6hDesc_untransformed_iff (m : Bc6hMode) : (bc6hDesc m).transformed = false ↔ m = .m1E ∨ m = .m03 := by
  cases m <;> decide

/-- The fields before the indices fill the block bits below IOFF (R142). -/
theorem bc6hDesc_fills (m : Bc6hMode) : let d := bc6hDesc m
    d.hdr + 3 * d.eb + (2 * d.ns - 1) * (d.stored .r + d.stored .g + d.stored .b) + d.pbits = d.ioff := by
  cases m <;> rfl

/-- Which modes have a second index, a rotation, an index selection and stored alpha (R145). -/
theorem bc7Desc_options (m : Bc7Mode) : let d := bc7Desc m
    (d.ib2 > 0 ↔ d.rb = 2) ∧ (d.rb = 2 ↔ m = .m4 ∨ m = .m5) ∧ (d.isb = 1 ↔ m = .m4) ∧
    (d.ab > 0 ↔ m = .m4 ∨ m = .m5 ∨ m = .m6 ∨ m = .m7) := by
  cases m <;> decide

theorem bc7Desc_subsets (m : Bc7Mode) : let d := bc7Desc m
    (d.ns > 1 → d.pb > 0) ∧ (d.ns = 3 ↔ m = .m0 ∨ m = .m2) ∧ (d.ns = 2 ↔ m = .m1 ∨ m = .m3 ∨ m = .m7) := by
  cases m <;> decide

/-- The widths of a channel with its P-bit appended (R145). -/
theorem bc7Desc_precision (m : Bc7Mode) : let d := bc7Desc m
    let up := if d.pk = .none then 0 else 1
    5 ≤ d.cb + up ∧ d.cb + up ≤ 8 ∧ (d.ab > 0 → 6 ≤ d.ab + up ∧ d.ab + up ≤ 8) := by
  cases m <;> decide

/-- The fields fill the block (R144). -/
theorem bc7Desc_fills (m : Bc7Mode) : let d := bc7Desc m
    d.hdr + d.pb + d.rb + d.isb + 2 * d.ns * (3 * d.cb + d.ab) + d.pCount + d.len1 + d.len2 = 128 := by
  cases m <;> rfl

/-- Settles O11: a BC6H descriptor has 2 subsets and 5 partition bits or 1 and 0, which fixes IOFF and IW; the other
clauses are facts of the two tables. -/
theorem descriptorsAreConsistent : Obligations.DescriptorsAreConsistent := by
  unfold Obligations.DescriptorsAreConsistent
  refine ⟨fun m => ?_, rfl, rfl, rfl, rfl, fun m => ?_⟩
  · intro d
    have hns : (d.ns = 2 ∧ d.pbits = 5) ∨ (d.ns = 1 ∧ d.pbits = 0) := bc6hDesc_subsets m
    have hindex2 (h : d.ns = 2) : d.ioff = 82 ∧ d.iw = 3 := ⟨if_pos h, if_pos h⟩
    have hindex1 (h : d.ns = 1) : d.ioff = 65 ∧ d.iw = 4 := ⟨if_neg (by omega), if_neg (by omega)⟩
    obtain ⟨hlow, hhigh⟩ := bc6hDesc_eb m
    exact ⟨by omega, by omega, hindex2, hindex1, hlow, hhigh, fun ht _ hc => bc6hDesc_delta m ht hc,
      bc6hDesc_untransformed_iff m, bc6hDesc_fills m⟩
  · obtain ⟨hib2, hrb, hisb, hab⟩ := bc7Desc_options m
    obtain ⟨hpb, hns3, hns2⟩ := bc7Desc_subsets m
    exact ⟨hib2, hrb, hisb, hab, hpb, hns3, hns2, bc7Desc_precision m, bc7Desc_fills m⟩

/-! ## Partitions and anchors -/

/-- What holds of every entry of a table and of the default holds of what is read at any index. -/
theorem getD_of_forall {P : Nat → Prop} {l : List Nat} {d : Nat} (hd : P d) (hl : ∀ x ∈ l, P x) (k : Nat) :
    P (l.getD k d) := by
  rw [List.getD_eq_getElem?_getD]
  cases h : l[k]? with
  | none => exact hd
  | some x => exact hl x (List.mem_of_getElem? h)

/-- A 3-subset partition has no subset above 2 (R148). -/
theorem romP3_lt (p i : Nat) (hi : i < 16) : romP3 p i < 3 := by
  have hrows : ∀ row ∈ romP3Rows, ∀ i < 16, rowTexel row i < 3 := by decide
  exact getD_of_forall (P := fun row => ∀ i < 16, rowTexel row i < 3) (by decide) hrows p i hi

theorem partitionTable_lt_three (ns p : Nat) {i : Nat} (hi : i < 16) : partitionTable ns p i < 3 := by
  unfold partitionTable
  split_ifs
  · exact (romP2_lt p i hi).trans (by decide)
  · exact romP3_lt p i hi
  · decide

/-- An anchor is one of the 16 texels (R149, R150). -/
theorem anchors_lt {ns p a : Nat} (ha : a ∈ anchors ns p) : a < 16 := by
  have h2 : romA2.getD p 0 < 16 := getD_of_forall (P := (· < 16)) (by decide) (by decide) p
  have h31 : romA31.getD p 0 < 16 := getD_of_forall (P := (· < 16)) (by decide) (by decide) p
  have h32 : romA32.getD p 0 < 16 := getD_of_forall (P := (· < 16)) (by decide) (by decide) p
  unfold anchors at ha
  split_ifs at ha <;> simp only [List.mem_cons, List.not_mem_nil, or_false] at ha <;> omega

/-- The anchor of each subset lies in that subset (R151). -/
theorem partitionTable_anchors {ns p : Nat} (hns : ns = 2 ∨ ns = 3) (hp : p < 64) :
    (anchors ns p).map (partitionTable ns p) = List.range ns := by
  have h2 : ∀ p < 64, (anchors 2 p).map (partitionTable 2 p) = List.range 2 := by decide
  have h3 : ∀ p < 64, (anchors 3 p).map (partitionTable 3 p) = List.range 3 := by decide
  obtain rfl | rfl := hns
  · exact h2 p hp
  · exact h3 p hp

/-- Anchors lie in different subsets, so they are different texels. -/
theorem anchors_nodup {ns p : Nat} (hns : ns = 2 ∨ ns = 3) (hp : p < 64) : (anchors ns p).Nodup := by
  refine List.Nodup.of_map (partitionTable ns p) ?_
  rw [partitionTable_anchors hns hp]
  exact List.nodup_range

/-- Every subset has a texel: its anchor. -/
theorem exists_texel_of_subset {ns p k : Nat} (hns : ns = 2 ∨ ns = 3) (hp : p < 64) (hk : k < ns) :
    ∃ i, i < 16 ∧ partitionTable ns p i = k := by
  rw [← List.mem_range, ← partitionTable_anchors hns hp, List.mem_map] at hk
  obtain ⟨a, ha, hsub⟩ := hk
  exact ⟨a, anchors_lt ha, hsub⟩

/-- Settles O12: the tables map the anchors to the subsets one to one, and the other clauses follow. -/
theorem partitionTablesAreConsistent : Obligations.PartitionTablesAreConsistent := by
  unfold Obligations.PartitionTablesAreConsistent
  intro p hp
  obtain ⟨h20, h21⟩ : romP2 p 0 = 0 ∧ romP2 p (romA2.getD p 0) = 1 := by
    simpa [anchors, partitionTable, List.range_succ] using partitionTable_anchors (.inl rfl) hp
  obtain ⟨h30, h31, h32⟩ : romP3 p 0 = 0 ∧ romP3 p (romA31.getD p 0) = 1 ∧ romP3 p (romA32.getD p 0) = 2 := by
    simpa [anchors, partitionTable, List.range_succ] using partitionTable_anchors (.inr rfl) hp
  exact ⟨h20, h30, h21, h31, h32, fun i hi => ⟨romP2_lt p i hi, romP3_lt p i hi⟩, anchors_nodup (.inl rfl) hp,
    anchors_nodup (.inr rfl) hp, fun a ha => (List.mem_append.1 ha).elim anchors_lt anchors_lt,
    fun k hk => exists_texel_of_subset (.inl rfl) hp hk, fun k hk => exists_texel_of_subset (.inr rfl) hp hk⟩

theorem anchors_getD_zero (ns p : Nat) : (anchors ns p).getD 0 0 = 0 := by
  unfold anchors
  split_ifs <;> rfl

theorem anchors_getD_one (ns p : Nat) : (anchors ns p).getD 1 0 =
    if ns = 2 then romA2.getD p 0 else if ns = 3 then romA31.getD p 0 else 0 := by
  unfold anchors
  split_ifs <;> rfl

theorem anchors_getD_two (ns p : Nat) : (anchors ns p).getD 2 0 = if ns = 3 then romA32.getD p 0 else 0 := by
  unfold anchors
  split_ifs with h2 h3
  · omega
  all_goals rfl

/-- `A[s]` (R156), also for a subset that the partition does not have. -/
theorem anchors_getD (ns p : Nat) {k : Nat} (hk : k < 3) : (anchors ns p).getD k 0 =
    if k = 0 then 0 else if k = 1 then (anchors ns p).getD 1 0 else (anchors ns p).getD 2 0 := by
  match k with
  | 0 => exact anchors_getD_zero ns p
  | 1 | 2 => rfl

theorem anchors_getD_lt (ns p k : Nat) : (anchors ns p).getD k 0 < 2 ^ 4 :=
  getD_of_forall (P := (· < 2 ^ 4)) (by decide) (fun _ => anchors_lt) k

/-! ## Fields of RES

The statements print RES as one concatenation; the model ORs fields placed at their bits. -/

/-- A concatenation placed in RES is its parts placed in RES, the low part first. -/
theorem resField_append {a b : Nat} (x : BitVec a) (y : BitVec b) (lo : Nat) :
    resField (x ++ y).toNat lo = resField y.toNat lo ||| resField x.toNat (b + lo) := by
  have hshift : BitVec.ofNat 64 (x.toNat <<< b) = BitVec.ofNat 64 x.toNat <<< b := by
    apply BitVec.eq_of_toNat_eq
    simp [Nat.shiftLeft_eq]
  rw [resField, resField, resField, BitVec.toNat_append, Nat.or_comm, BitVec.ofNat_or, BitVec.shiftLeft_or_distrib,
    BitVec.shiftLeft_add, hshift]

theorem resField_toNat_zero (v : BitVec 64) : resField v.toNat 0 = v := by
  rw [resField, BitVec.ofNat_toNat, BitVec.setWidth_eq, BitVec.shiftLeft_zero]

/-- A value that fits its field of `w` bits is reported whole. -/
theorem resField_ofNat {w v : Nat} (h : v < 2 ^ w) (lo : Nat) :
    resField (BitVec.ofNat w v).toNat lo = resField v lo := by
  rw [BitVec.toNat_ofNat, Nat.mod_eq_of_lt h]

theorem resField_zero (lo : Nat) : resField 0 lo = 0#64 := by
  rw [resField, BitVec.zero_shiftLeft]

/-! ## MODEQ of BC6H -/

/-- Every entry of a BC6H descriptor fits the field of RES that reports it (R155). -/
theorem bc6hDesc_fields_lt (m : Bc6hMode) : let d := bc6hDesc m
    (bc6hModeId m < 2 ^ 5 ∧ d.hdr < 2 ^ 4 ∧ d.pbits < 2 ^ 4 ∧ d.ns < 2 ^ 2 ∧ d.eb < 2 ^ 5) ∧
    (d.dR < 2 ^ 4 ∧ d.dG < 2 ^ 4 ∧ d.dB < 2 ^ 4) ∧ d.iw < 2 ^ 4 ∧ d.ext < 2 ^ 8 := by
  cases m <;> decide

theorem bc6hPart_eq_extract (d : Bc6hDesc) (blk : Block) :
    bc6hPart d blk = (if d.ns = 2 then (blk.extractLsb' 77 5).setWidth 6 else 0#6).toNat := by
  rw [bc6hPart, memRead_eq_extract]
  split
  · exact (BitVec.toNat_setWidth_of_le (by decide)).symm
  · rfl

theorem modeqBc6h_of_mode {blk : Block} {m : Bc6hMode} (h : bc6hModeOfId (bc6hSelector blk).1 = some m) :
    modeqBc6h blk = resField (bc6hModeId m) 0 ||| (resField 1 8 ||| (resField (bc6hDesc m).hdr 12 |||
      modeqBc6hDesc (bc6hDesc m) (bc6hPart (bc6hDesc m) blk))) := by
  rw [bc6hModeId_of_modeOfId _ m h, bc6hSelector_of_mode h]
  simp only [modeqBc6h, romBc6hMode, h, Option.map_some]
  ac_rfl

/-- An invalid selector is one of 5 bits, so HDR reads 5 (R155). -/
theorem modeqBc6h_of_none {blk : Block} (h : bc6hModeOfId (bc6hSelector blk).1 = none) :
    modeqBc6h blk = BitVec.ofNat 64 ((bc6hSelector blk).1 + 0x5000) := by
  have hall : ∀ v : Fin 32, bc6hModeOfId (selectorOfBits v).1 = none →
      resField (selectorOfBits v).1 0 ||| resField (selectorOfBits v).2 12 =
        BitVec.ofNat 64 ((selectorOfBits v).1 + 0x5000) := by decide
  simp only [modeqBc6h, romBc6hMode, h, Option.map_none]
  rw [bc6hSelector_eq] at h ⊢
  exact hall ⟨_, memRead_lt blk 0 5⟩ h

/-! ## MODEQ of BC7 -/

/-- Every entry of a BC7 descriptor fits the field of RES that reports it (R155). -/
theorem bc7Desc_fields_lt (m : Bc7Mode) : let d := bc7Desc m
    (bc7ModeId m < 2 ^ 4 ∧ bc7ModeId m + 1 < 2 ^ 4 ∧ d.pb < 2 ^ 4 ∧ d.ns < 2 ^ 2 ∧ d.rb < 2 ^ 2) ∧
    (d.cb < 2 ^ 4 ∧ d.ab < 2 ^ 4 ∧ d.pk.code < 2 ^ 2) ∧ d.isb < 2 ^ 1 ∧ d.ib < 2 ^ 4 ∧ d.ib2 < 2 ^ 4 := by
  cases m <;> decide

/-- MODEQ reads PART, ROT and ISBVAL where the parser takes them: after the selector, in that order (R103, R202). -/
theorem bc7Head_eq_fields (m : Bc7Mode) (blk : Block) :
    bc7Part (bc7Desc m) blk = (bc7FieldsOf m blk).part.toNat ∧
    bc7Rot (bc7Desc m) blk = (bc7FieldsOf m blk).rot.toNat ∧
    bc7Isb (bc7Desc m) blk = (bc7FieldsOf m blk).isb.toNat := by
  have hread (x : Bc7Field) {lo : Nat} (hr : ⟨lo, bc7Width (bc7Desc m) x, x, 0⟩ ∈ bc7Rows m) :
      memRead blk lo (bc7Width (bc7Desc m) x) = bc7Val (bc7FieldsOf m blk) x := by
    rw [bc7Val_fieldsOf, (bc7Rows_layOut m).gather_eq blk hr]
  exact ⟨hread .part List.mem_cons_self, hread .rot (List.mem_cons_of_mem _ List.mem_cons_self),
    hread .isb (List.mem_cons_of_mem _ (List.mem_cons_of_mem _ List.mem_cons_self))⟩

theorem modeqBc7_of_mode {blk : Block} {m : Bc7Mode} (h : bc7Selector blk = bc7ModeId m) :
    modeqBc7 blk = resField (bc7ModeId m) 0 ||| (resField 1 8 ||| (resField (bc7ModeId m + 1) 12 |||
      modeqBc7Desc (bc7Desc m) (bc7FieldsOf m blk).part.toNat (bc7FieldsOf m blk).rot.toNat
        (bc7FieldsOf m blk).isb.toNat)) := by
  obtain ⟨hpart, hrot, hisb⟩ := bc7Head_eq_fields m blk
  simp only [modeqBc7, h, bc7ModeOfId_modeId, hpart, hrot, hisb, BitVec.or_assoc]

theorem modeqBc7_of_reserved {blk : Block} (h : bc7Selector blk = 8) : modeqBc7 blk = 0x8008 := by
  rw [modeqBc7, h]
  rfl

theorem codecOf_extract (w : Word) : codecOf (w.extractLsb' 4 1) = if w.getLsbD 4 then .bc7 else .bc6h := by
  have hbit : w.extractLsb' 4 1 = BitVec.ofBool (w.getLsbD 4) := by
    ext k hk
    obtain rfl := Nat.lt_one_iff.1 hk
    simp
  rw [hbit]
  cases w.getLsbD 4 <;> rfl

/-- Settles O17: every reported value fits its field, so the concatenation falls apart into the fields that the model
places. -/
theorem modeqReportsTheDescriptor : Obligations.ModeqReportsTheDescriptor := by
  unfold Obligations.ModeqReportsTheDescriptor
  refine ⟨fun s m h => ?_, fun s h => ?_, fun s m h => ?_, fun s h => ?_, fun w hop => ?_⟩
  · intro v
    have hv : modeqBc6h s.blk = v := by
      obtain ⟨⟨hid, hhdr, hpb, hns, heb⟩, ⟨hdR, hdG, hdB⟩, hiw, hext⟩ := bc6hDesc_fields_lt m
      rw [modeqBc6h_of_mode h, bc6hPart_eq_extract, modeqBc6hDesc, ← resField_toNat_zero v]
      simp only [v, resField_append]
      simp only [resField_ofNat, hid, hhdr, hpb, hns, heb, hdR, hdG, hdB, hiw, hext, BitVec.toNat_ofBool,
        BitVec.reduceToNat, Nat.reduceAdd, resField_zero, BitVec.zero_or, BitVec.or_assoc]
    rw [exec_modeq_bc6h, hv, writeRes]
  · rw [exec_modeq_bc6h, modeqBc6h_of_none h, writeRes]
  · intro v
    have hv : modeqBc7 s.blk = v := by
      obtain ⟨⟨hid, hhdr, hpb, hns, hrb⟩, ⟨hcb, hab, hpk⟩, hisb, hib, hib2⟩ := bc7Desc_fields_lt m
      rw [modeqBc7_of_mode h, modeqBc7Desc, ← resField_toNat_zero v]
      simp only [v, resField_append]
      simp only [resField_ofNat, hid, hhdr, hpb, hns, hrb, hcb, hab, hpk, hisb, hib, hib2, BitVec.reduceToNat,
        Nat.reduceAdd, resField_zero, BitVec.zero_or, BitVec.or_zero, BitVec.or_assoc]
    rw [exec_modeq_bc7, hv, writeRes]
  · rw [exec_modeq_bc7, modeqBc7_of_reserved h, writeRes]
  · rw [← codecOf_extract]
    exact spells_of_reservedField hop rfl le_rfl commandOf_modeq

/-! ## PARTQ -/

theorem partqInDomain_iff (ns : BitVec 2) (p : BitVec 6) :
    partqInDomain ns.toNat p.toNat = true ↔ ns ≠ 0 ∧ (ns = 1 → p = 0) := by
  have h0 : ns.toNat = 0 ↔ ns = 0 := BitVec.toNat_inj (y := 0)
  have h1 : ns.toNat = 1 ↔ ns = 1 := BitVec.toNat_inj (y := 1)
  have hp : p.toNat = 0 ↔ p = 0 := BitVec.toNat_inj (y := 0)
  simp only [partqInDomain, Bool.and_eq_true, bne_iff_ne, Bool.not_eq_true', Bool.and_eq_false_iff, beq_eq_false_iff_ne,
    bne_eq_false_iff_eq, ne_eq, h0, h1, hp, imp_iff_not_or]

/-- Settles O18: the subset is below 3 and the anchors below 16, so each fits its field of RES. -/
theorem partqReportsSubsetAndAnchors : Obligations.PartqReportsSubsetAndAnchors := by
  unfold Obligations.PartqReportsSubsetAndAnchors
  refine ⟨fun s ns p i hns hp => ?_, fun s ns p i hout => ?_,
    fun w hop => spells_of_reservedField hop rfl le_rfl commandOf_partq⟩
  · intro sub a1 a2 own v
    have h2 : ns.toNat = 2 ↔ ns = 2 := BitVec.toNat_inj (y := 2)
    have h3 : ns.toNat = 3 ↔ ns = 3 := BitVec.toNat_inj (y := 3)
    have hsub : partitionTable ns.toNat p.toNat i.toNat = sub := by simp only [partitionTable, h2, h3, sub]
    have ha1 : (anchors ns.toNat p.toNat).getD 1 0 = a1 := by simp only [anchors_getD_one, h2, h3, a1]
    have ha2 : (anchors ns.toNat p.toNat).getD 2 0 = a2 := by simp only [anchors_getD_two, h3, a2]
    have hlt : sub < 3 := hsub ▸ partitionTable_lt_three ns.toNat p.toNat i.isLt
    have hown : (anchors ns.toNat p.toNat).getD sub 0 = own := by rw [anchors_getD _ _ hlt, ha1, ha2]
    have hv : partqResult ns.toNat p.toNat i.toNat = v := by
      have hsub4 : sub < 2 ^ 2 := hlt.trans (by decide)
      have ha1' : a1 < 2 ^ 4 := ha1 ▸ anchors_getD_lt _ _ 1
      have ha2' : a2 < 2 ^ 4 := ha2 ▸ anchors_getD_lt _ _ 2
      rw [← resField_toNat_zero v]
      simp only [partqResult, hsub, ha1, ha2, hown, v, resField_append]
      simp only [resField_ofNat, hsub4, ha1', ha2', BitVec.toNat_ofBool, BitVec.reduceToNat, Nat.reduceAdd,
        resField_zero, BitVec.zero_or, BitVec.or_zero, BitVec.or_assoc]
    rw [exec_partq_inDomain ns p i s ((partqInDomain_iff ns p).2 ⟨hns, hp⟩), hv, writeRes]
  · have hdom : partqInDomain ns.toNat p.toNat = false := by
      rw [← Bool.not_eq_true, partqInDomain_iff]
      tauto
    rw [exec_partq_outOfDomain ns p i s hdom]
    exact faultWith_faults .badOperand s

end Sys2Proof.Machine
end

section
/-! PROOFS, 42_bc6h_parser: the endpoints of the parse of a BC6H block (R174 to R178). -/

namespace Sys2Proof.Machine

/-! ## The stored channels -/

/-- The channels of E[0] of a well-formed block have EB bits (R141, R174). -/
theorem bc6hFields_e0_lt {d : Bc6hDesc} {f : Bc6hFields} (h : f.wf d = true) (c : Chan) :
    (f.e0.chan c).toNat < 2 ^ d.eb := by
  have hx := (bc6hFields_wf_iff d f).1 h
  cases c with
  | r => exact hx .r0
  | g => exact hx .g0
  | b => exact hx .b0
  | a => exact Nat.two_pow_pos _

theorem bc6hRaw_chan_lt {d : Bc6hDesc} {e : Bc6hRaw} (h : e.fits d = true) (c : Chan) :
    (e.chan c).toNat < 2 ^ d.stored c := by
  simp only [Bc6hRaw.fits, fits6, Bool.and_eq_true, decide_eq_true_eq] at h
  obtain ⟨⟨hr, hg⟩, hb⟩ := h
  cases c with
  | r => exact hr
  | g => exact hg
  | b => exact hb
  | a => exact Nat.two_pow_pos _

/-- The channels of every other endpoint of a well-formed block fit their stored width (R141, R176). -/
theorem bc6hFields_endpoint_lt {d : Bc6hDesc} {f : Bc6hFields} (h : f.wf d = true) {k : Nat} (hk : k ≠ 0)
    (c : Chan) : ((f.endpoint k).chan c).toNat < 2 ^ d.stored c := by
  simp only [Bc6hFields.wf, Bool.and_eq_true] at h
  obtain ⟨⟨⟨⟨⟨-, h1⟩, h2⟩, h3⟩, -⟩, -⟩ := h
  match k with
  | 0 => exact absurd rfl hk
  | 1 => exact bc6hRaw_chan_lt h1 c
  | 2 => exact bc6hRaw_chan_lt h2 c
  | 3 => exact bc6hRaw_chan_lt h3 c
  | k + 4 => cases c <;> exact Nat.two_pow_pos _

/-! ## Reconstruction -/

/-- Channel `c` of E[k] as an exact integer, before it is masked to EB bits: E[0] as stored, and every other one
E[0] plus its sign-extended delta in a transformed mode and its absolute value in the others (R174, R176). -/
def bc6hExact (d : Bc6hDesc) (f : Bc6hFields) (k : Nat) (c : Chan) : Int :=
  let base : Int := (f.e0.chan c).toNat
  let raw : Int := ((f.endpoint k).chan c).toNat
  if k = 0 then base else if d.transformed = true then base + raw.bmod (2 ^ d.delta c) else raw

theorem one_le_bc6hDesc_eb (m : Bc6hMode) : 1 ≤ (bc6hDesc m).eb := le_trans (by decide) (bc6hDesc_eb m).1

/-- A delta has at least one bit, so its sign extension is the balanced remainder (R176). -/
theorem sextN_delta (m : Bc6hMode) (ht : (bc6hDesc m).transformed = true) {c : Chan} (hc : c ≠ .a) (v : Int) :
    sextN ((bc6hDesc m).delta c) v = v.bmod (2 ^ (bc6hDesc m).delta c) :=
  sextN_eq_bmod _ _ (le_trans (by decide) (bc6hDesc_delta m ht hc).1)

/-- The unsigned parse is the exact value masked to EB bits; on the stored values the mask does nothing (R174,
R176). -/
theorem bc6hChannel_unsigned {m : Bc6hMode} {f : Bc6hFields} (h : f.wf (bc6hDesc m) = true) (k : Nat) {c : Chan}
    (hc : c ≠ .a) :
    bc6hChannel (bc6hDesc m) false f k c = bc6hExact (bc6hDesc m) f k c % 2 ^ (bc6hDesc m).eb := by
  have hstored : ∀ {x : Nat}, x < 2 ^ (bc6hDesc m).eb → (x : Int) = x % 2 ^ (bc6hDesc m).eb := fun hx =>
    (Int.emod_eq_of_lt (Int.natCast_nonneg _) (by exact_mod_cast hx)).symm
  by_cases hk : k = 0
  · simpa [bc6hChannel, bc6hExact, bc6hBase, signExtendIf, hk] using hstored (bc6hFields_e0_lt h c)
  · by_cases ht : (bc6hDesc m).transformed = true
    · simp [bc6hChannel, bc6hExact, bc6hBase, signExtendIf, hk, ht, maskN_eq, sextN_delta m ht hc]
    · have habs : ((f.endpoint k).chan c).toNat < 2 ^ (bc6hDesc m).eb := by
        simpa [Bc6hDesc.stored, ht] using bc6hFields_endpoint_lt h hk c
      simpa [bc6hChannel, bc6hExact, signExtendIf, hk, ht] using hstored habs

/-- Sign-extending a summand and masking the sum do not change the sum's low bits, so its sign extension is that of
the exact sum (R178: "`mask_EB(a + x) = mask_EB(mask_EB(a) + x)`"). -/
theorem sextN_maskN_sextN_add {n : Nat} (a x : Int) (h : 1 ≤ n) :
    sextN n (maskN n (sextN n a + x)) = (a + x).bmod (2 ^ n) := by
  rw [sextN_eq_bmod _ _ h, sextN_eq_bmod _ _ h, maskN, Int.emod_bmod, Int.bmod_add_bmod]

/-- The signed parse is the exact value read as an EB-bit two's-complement number (R175 to R177). -/
theorem bc6hChannel_signed (m : Bc6hMode) (f : Bc6hFields) (k : Nat) {c : Chan} (hc : c ≠ .a) :
    bc6hChannel (bc6hDesc m) true f k c = (bc6hExact (bc6hDesc m) f k c).bmod (2 ^ (bc6hDesc m).eb) := by
  have heb := one_le_bc6hDesc_eb m
  by_cases hk : k = 0
  · simp [bc6hChannel, bc6hExact, bc6hBase, signExtendIf, hk, sextN_eq_bmod _ _ heb]
  · by_cases ht : (bc6hDesc m).transformed = true
    · simp [bc6hChannel, bc6hExact, bc6hBase, signExtendIf, hk, ht, sextN_delta m ht hc, sextN_maskN_sextN_add _ _ heb]
    · simp [bc6hChannel, bc6hExact, signExtendIf, hk, ht, sextN_eq_bmod _ _ heb]

/-! ## The parse -/

theorem exists_bc6hChan {c : Chan} (hc : c ≠ .a) : ∃ n, bc6hChan n = c := by
  cases c with
  | r => exact ⟨0, rfl⟩
  | g => exact ⟨1, rfl⟩
  | b => exact ⟨2, rfl⟩
  | a => exact absurd rfl hc

theorem parseBc6h_endpoints_length (m : Bc6hMode) (signed : Bool) (f : Bc6hFields) :
    (parseBc6h m signed f).endpoints.length = 2 * (bc6hDesc m).ns := by
  simp [parseBc6h]

theorem parseBc6h_endpoints_getD_chan (m : Bc6hMode) (signed : Bool) (f : Bc6hFields) {k : Nat} {c : Chan}
    (hk : k < 2 * (bc6hDesc m).ns) (hc : c ≠ .a) :
    ((parseBc6h m signed f).endpoints.getD k ⟨0, 0, 0, 0⟩).chan c = bc6hChannel (bc6hDesc m) signed f k c := by
  obtain ⟨n, rfl⟩ := exists_bc6hChan hc
  exact parseBc6h_endpoint_chan m signed f hk

/-- Settles O31: each endpoint of the parse is a channel of R174 to R177, which is the exact value reduced modulo
2^EB. -/
theorem bc6hEndpointsAreReconstructed : Obligations.Bc6hEndpointsAreReconstructed := by
  unfold Obligations.Bc6hEndpointsAreReconstructed
  intro m f k c hwf hk hc
  refine ⟨parseBc6h_endpoints_length m false f, parseBc6h_endpoints_length m true f, ?_, ?_, rfl⟩
  · rw [parseBc6h_endpoints_getD_chan m false f hk hc]
    exact bc6hChannel_unsigned hwf k hc
  · rw [parseBc6h_endpoints_getD_chan m true f hk hc]
    exact bc6hChannel_signed m f k hc

/-! ## Ranges -/

/-- Both readings of an endpoint have the same EB-bit pattern (R178). -/
theorem bc6hChannel_signed_emod {m : Bc6hMode} {f : Bc6hFields} (h : f.wf (bc6hDesc m) = true) (k : Nat) {c : Chan}
    (hc : c ≠ .a) :
    bc6hChannel (bc6hDesc m) true f k c % 2 ^ (bc6hDesc m).eb = bc6hChannel (bc6hDesc m) false f k c := by
  rw [bc6hChannel_signed m f k hc, bc6hChannel_unsigned h k hc]
  exact_mod_cast Int.bmod_emod

theorem bc6hChannel_unsigned_range {m : Bc6hMode} {f : Bc6hFields} (h : f.wf (bc6hDesc m) = true) (k : Nat)
    {c : Chan} (hc : c ≠ .a) :
    0 ≤ bc6hChannel (bc6hDesc m) false f k c ∧ bc6hChannel (bc6hDesc m) false f k c < 2 ^ (bc6hDesc m).eb := by
  rw [bc6hChannel_unsigned h k hc, ← maskN_eq]
  exact ⟨maskN_nonneg _ _, maskN_lt _ _⟩

theorem bc6hChannel_signed_range (m : Bc6hMode) (f : Bc6hFields) (k : Nat) {c : Chan} (hc : c ≠ .a) :
    -(2 ^ ((bc6hDesc m).eb - 1)) ≤ bc6hChannel (bc6hDesc m) true f k c ∧
      bc6hChannel (bc6hDesc m) true f k c < 2 ^ ((bc6hDesc m).eb - 1) := by
  have heb := one_le_bc6hDesc_eb m
  rw [bc6hChannel_signed m f k hc, ← sextN_eq_bmod _ _ heb]
  exact ⟨sextN_ge _ _ heb, sextN_lt _ _ heb⟩

/-- Settles O32: the ranges are those of a reduction modulo 2^EB, and 17 signed bits hold them because EB is at
most 16. -/
theorem bc6hEndpointRanges : Obligations.Bc6hEndpointRanges := by
  unfold Obligations.Bc6hEndpointRanges
  intro m f k c hwf hc _ eb u v
  obtain ⟨hu0, hu1⟩ : 0 ≤ u ∧ u < 2 ^ eb := bc6hChannel_unsigned_range hwf k hc
  obtain ⟨hv0, hv1⟩ : -(2 ^ (eb - 1)) ≤ v ∧ v < 2 ^ (eb - 1) := bc6hChannel_signed_range m f k hc
  have heb : eb ≤ 16 := (bc6hDesc_eb m).2
  have hpow : (2 : Int) ^ eb ≤ 2 ^ 16 := pow_le_pow_right₀ (by decide) heb
  have hpow' : (2 : Int) ^ (eb - 1) ≤ 2 ^ 16 := pow_le_pow_right₀ (by decide) ((Nat.sub_le _ _).trans heb)
  exact ⟨hu0, Int.le_sub_one_of_lt hu1, hv0, Int.le_sub_one_of_lt hv1, bc6hChannel_signed_emod hwf k hc,
    by linarith, by linarith, by linarith, by linarith⟩

end Sys2Proof.Machine
end

section
/-! PROOFS, 43_bc7_parser: the endpoints of the parse of a BC7 block (R203, R204), the range of its endpoint and texel
channels (R285), and the texels of a mode without alpha (R209). -/

namespace Sys2Proof.Machine

/-! ## P-bits and expansion -/

/-- Bit replication as arithmetic (R262). -/
theorem expand7_eq (v n : Nat) : expand7 v n = (v * 2 ^ (8 - n)) ||| (v / 2 ^ (2 * n - 8)) := by
  rw [expand7, Nat.shiftLeft_eq, Nat.shiftRight_eq_div_pow]

theorem expand7_lt {v n : Nat} (hv : v < 2 ^ n) (hn : n ≤ 8) : expand7 v n < 2 ^ 8 := by
  have hpow : 2 ^ n * 2 ^ (8 - n) = 2 ^ 8 := by rw [← pow_add, Nat.add_sub_cancel' hn]
  rw [expand7_eq]
  refine Nat.or_lt_two_pow ?_ ((Nat.div_le_self _ _).trans_lt (hv.trans_le (Nat.pow_le_pow_right (by decide) hn)))
  exact hpow ▸ Nat.mul_lt_mul_of_pos_right hv (Nat.two_pow_pos _)

theorem bc7PBit_lt (d : Bc7Desc) (f : Bc7Fields) (k : Nat) : bc7PBit d f k < 2 := by
  unfold bc7PBit
  split
  · decide
  · exact Bool.toNat_lt _
  · exact Bool.toNat_lt _

/-- A mode with P-bits gives an endpoint its own or its subset's (R203). -/
theorem bc7PBit_eq {d : Bc7Desc} (h : d.pk ≠ .none) (f : Bc7Fields) (k : Nat) :
    bc7PBit d f k = (f.p.getLsbD (if d.pk = .shared then k / 2 else k)).toNat := by
  unfold bc7PBit
  cases hk : d.pk with
  | none => exact absurd hk h
  | unique => rfl
  | shared => rfl

theorem bc7Expand_none {d : Bc7Desc} (h : d.pk = .none) (f : Bc7Fields) (k v n : Nat) :
    bc7Expand d f k v n = expand7 v n := if_pos h

/-- The P-bit goes below the stored value (R203). -/
theorem bc7Expand_pbit {d : Bc7Desc} (h : d.pk ≠ .none) (f : Bc7Fields) (k v n : Nat) :
    bc7Expand d f k v n = expand7 (2 * v + bc7PBit d f k) (n + 1) := by
  rw [bc7Expand, if_neg h, ← Nat.shiftLeft_add_eq_or_of_lt (bc7PBit_lt d f k), Nat.shiftLeft_eq, pow_one, Nat.mul_comm]

/-- A stored value that fills at most 8 bits with its P-bit expands to a byte. -/
theorem bc7Expand_lt {d : Bc7Desc} {v n : Nat} (hv : v < 2 ^ n) (hn : n + (if d.pk = .none then 0 else 1) ≤ 8)
    (f : Bc7Fields) (k : Nat) : bc7Expand d f k v n < 2 ^ 8 := by
  by_cases h : d.pk = .none
  · rw [bc7Expand_none h]
    exact expand7_lt hv (by simpa [h] using hn)
  · have hp := bc7PBit_lt d f k
    rw [bc7Expand_pbit h]
    exact expand7_lt (by rw [pow_succ]; omega) (by simpa [h] using hn)

/-! ## Endpoints -/

/-- The bits a mode stores of a channel: AB for alpha and CB for a colour (R102). -/
def Bc7Desc.stored (d : Bc7Desc) (c : Chan) : Nat := if c = .a then d.ab else d.cb

theorem bc7Channel_eq (d : Bc7Desc) (f : Bc7Fields) (k : Nat) (c : Chan) :
    bc7Channel d f k c = if c = .a ∧ d.ab = 0 then 255
      else (bc7Expand d f k ((f.endpoint k).chan c).toNat (d.stored c) : Int) := by
  cases c with
  | a => by_cases h : d.ab = 0 <;> simp [bc7Channel, Bc7Desc.stored, h]
  | r | g | b => rfl

/-- A mode without alpha has alpha 255 at every endpoint (R204). -/
theorem bc7Channel_alpha {d : Bc7Desc} (h : d.ab = 0) (f : Bc7Fields) (k : Nat) : bc7Channel d f k .a = 255 := by
  rw [bc7Channel_eq, if_pos ⟨rfl, h⟩]

theorem parseBc7_endpoints_length (m : Bc7Mode) (f : Bc7Fields) :
    (parseBc7 m f).endpoints.length = 2 * (bc7Desc m).ns := by
  simp [parseBc7]

/-- The parse holds the channels of R204. -/
theorem parseBc7_endpoint_chan {m : Bc7Mode} {k : Nat} (hk : k < 2 * (bc7Desc m).ns) (f : Bc7Fields) (c : Chan) :
    ((parseBc7 m f).endpoint k).chan c = bc7Channel (bc7Desc m) f k c := by
  have he : (parseBc7 m f).endpoint k = bc7Endpoint (bc7Desc m) f k := by
    simp [ParsedBlock.endpoint, parseBc7, hk]
  rw [he]
  cases c <;> rfl

/-- Settles O34: the parse holds the expanded channels, and the P-bit is the low bit of what is expanded. -/
theorem bc7EndpointsExpand : Obligations.Bc7EndpointsExpand := by
  unfold Obligations.Bc7EndpointsExpand
  intro m f k c hk d width raw pbit v n
  refine ⟨parseBc7_endpoints_length m f, ?_⟩
  have hexpand : bc7Expand d f k raw width = expand7 v n := by
    by_cases h : d.pk = .none
    · rw [bc7Expand_none h, show v = raw from if_pos h, show n = width from if_pos h]
    · rw [bc7Expand_pbit h, bc7PBit_eq h, show v = 2 * raw + pbit from if_neg h, show n = width + 1 from if_neg h]
  rw [← expand7_eq, ← hexpand]
  exact (parseBc7_endpoint_chan hk f c).trans (bc7Channel_eq d f k c)

theorem bc7Desc_stored_le (m : Bc7Mode) (c : Chan) :
    (bc7Desc m).stored c + (if (bc7Desc m).pk = .none then 0 else 1) ≤ 8 := by
  cases m <;> cases c <;> decide

/-- Every channel of a well-formed block fits the bits its mode stores (R102). -/
theorem bc7Fields_endpoint_lt {m : Bc7Mode} {f : Bc7Fields} (h : f.wf (bc7Desc m) = true) (k : Nat) (c : Chan) :
    ((f.endpoint k).chan c).toNat < 2 ^ (bc7Desc m).stored c :=
  (bc7Raw_fits_iff _ _).1 (((bc7Val_chan_lt_iff m f).1 fun k c => (bc7Fields_wf_iff m f).1 h (.chan k c)).1 k) c

theorem bc7Channel_range {m : Bc7Mode} {f : Bc7Fields} (h : f.wf (bc7Desc m) = true) (k : Nat) (c : Chan) :
    0 ≤ bc7Channel (bc7Desc m) f k c ∧ bc7Channel (bc7Desc m) f k c ≤ 255 := by
  have hlt := bc7Expand_lt (bc7Fields_endpoint_lt h k c) (bc7Desc_stored_le m c) f k
  rw [bc7Channel_eq]
  split_ifs <;> omega

/-! ## Texels -/

/-- No weight is above 64 (R231). -/
theorem weight_le (p idx : Nat) : weight p idx ≤ 64 := by
  have hrows : ∀ w ∈ weightTable p, w ≤ 64 := by
    unfold weightTable
    split <;> decide
  exact getD_of_forall (P := (· ≤ 64)) (by decide) hrows idx

/-- What bounds both endpoints bounds every value between them: the weights sum to 64 and the rounding bias is below
the divisor (R233). -/
theorem interpolate_range {e0 e1 lo hi : Int} (h0 : lo ≤ e0 ∧ e0 ≤ hi) (h1 : lo ≤ e1 ∧ e1 ≤ hi) (idx prec : Nat) :
    lo ≤ interpolate e0 e1 idx prec ∧ interpolate e0 e1 idx prec ≤ hi := by
  have hw : (0 : Int) ≤ 64 - weight prec idx := by have := weight_le prec idx; omega
  have hw' : (0 : Int) ≤ weight prec idx := Int.natCast_nonneg _
  have hl0 := mul_le_mul_of_nonneg_left h0.1 hw
  have hl1 := mul_le_mul_of_nonneg_left h1.1 hw'
  have hu0 := mul_le_mul_of_nonneg_left h0.2 hw
  have hu1 := mul_le_mul_of_nonneg_left h1.2 hw'
  rw [interpolate, floorShr_eq]
  constructor
  · rw [Int.le_ediv_iff_mul_le (by decide)]; linarith
  · rw [← Int.lt_add_one_iff, Int.ediv_lt_iff_lt_mul (by decide)]; linarith

/-- Interpolation between equal endpoints changes nothing (R233). -/
theorem interpolate_self (e : Int) (idx prec : Nat) : interpolate e e idx prec = e :=
  have h := interpolate_range (e0 := e) ⟨le_rfl, le_rfl⟩ ⟨le_rfl, le_rfl⟩ idx prec
  le_antisymm h.2 h.1

theorem bc7Value_range {m : Bc7Mode} {f : Bc7Fields} (h : f.wf (bc7Desc m) = true) (i : Nat) (c : Chan) :
    0 ≤ bc7Value m f i c ∧ bc7Value m f i c ≤ 255 :=
  interpolate_range (bc7Channel_range h _ c) (bc7Channel_range h _ c) _ _

/-- Settles O36: the channels are bytes because the expansion is, and interpolation stays between them. -/
theorem bc7ValuesAreBytes : Obligations.Bc7ValuesAreBytes := by
  unfold Obligations.Bc7ValuesAreBytes
  intro m f i c hwf _
  obtain ⟨h0, h255⟩ := bc7Value_range hwf i c
  refine ⟨fun k _ => bc7Channel_range hwf k c, h0, h255, ?_⟩
  rw [BitVec.toNat_ofInt, Int.emod_eq_of_lt h0 (by omega), Int.toNat_of_nonneg h0]

/-! ## What a BC7 decode writes -/

/-- The subset of a texel is one of the block's (R152). -/
theorem bc7Subset_lt (m : Bc7Mode) (p : Nat) {i : Nat} (hi : i < 16) :
    partitionTable (bc7Desc m).ns p i < (bc7Desc m).ns := by
  obtain h | h | h := bc7Desc_ns m
  · rw [h]; exact Nat.one_pos
  · rw [h]; exact romP2_lt p i hi
  · rw [h]; exact romP3_lt p i hi

theorem parseBc7_ns (m : Bc7Mode) (f : Bc7Fields) : (parseBc7 m f).ns.toNat = (bc7Desc m).ns := by
  cases m <;> rfl

theorem parseBc7_rot (m : Bc7Mode) (f : Bc7Fields) : (parseBc7 m f).rot = f.rot := rfl

/-- Index selection gives alpha and the colours the index and precision of R205 and R206. -/
theorem bc7Indices_parse (m : Bc7Mode) (f : Bc7Fields) (i : Nat) (c : Chan) :
    let x := bc7Indices (bc7Desc m) (parseBc7 m f) i
    (if c = .a then (x.ai, x.ap) else (x.ci, x.cp)) = bc7IndexOf m f i c := by
  have hidx1 : (parseBc7 m f).idx1.toNat = f.idx1.toNat := BitVec.toNat_setWidth_of_le (by decide)
  have hidx2 : (parseBc7 m f).idx2.toNat = f.idx2.toNat := BitVec.toNat_setWidth_of_le (by decide)
  simp only [bc7Indices, bc7IndexOf, parseBc7_ns, hidx1, hidx2]
  cases m with
  | m4 =>
    have hisb : f.isb = 0 ∨ f.isb = 1 := by generalize f.isb = b; revert b; decide
    obtain h | h := hisb <;> cases c <;> simp [parseBc7, bc7Desc, h]
  | m5 => cases c <;> rfl
  | m0 | m1 | m2 | m3 | m6 | m7 => cases c <;> rfl

/-- The formatter's texel before rotation is the one of R285. -/
theorem bc7Texel_parse (m : Bc7Mode) (f : Bc7Fields) {i : Nat} (hi : i < 16) (c : Chan) :
    (bc7Texel (bc7Desc m) (parseBc7 m f) i).chan c = bc7Value m f i c := by
  have hsub := bc7Subset_lt m f.part.toNat hi
  rw [bc7Value, ← bc7Indices_parse, ← parseBc7_endpoint_chan (by omega), ← parseBc7_endpoint_chan (by omega),
    ← parseBc7_ns m f]
  cases c <;> rfl

/-- Rotation swaps alpha with the channel that ROT names (R288). -/
theorem rotate_chan (t : Endpoint) (rot : BitVec 2) (c : Chan) :
    (rotate t rot).chan c = t.chan (rotatedFrom rot c) := by
  have hrot : rot = 0 ∨ rot = 1 ∨ rot = 2 ∨ rot = 3 := by revert rot; decide
  obtain rfl | rfl | rfl | rfl := hrot <;> cases c <;> rfl

/-- Byte `c` of texel `i` of a valid block is its channel after rotation (R285, R287). -/
theorem bc7Output_parse (m : Bc7Mode) (f : Bc7Fields) (i : Fin 16) (c : Fin 4) :
    (bc7Output (parseBc7 m f))[4 * i.val + c.val] =
      BitVec.ofInt 8 (bc7Value m f i.val (rotatedFrom f.rot (bc7Chan c.val))) := by
  have hdiv : (4 * i.val + c.val) / 4 = i.val := by omega
  have hmod : (4 * i.val + c.val) % 4 = c.val := by omega
  rw [← bc7Texel_parse m f i.isLt, ← rotate_chan]
  refine (tabulate_getElem 64 _ (4 * i.val + c.val) (by omega)).trans ?_
  simp only [hdiv, hmod, parseBc7_rot]

/-- In a mode without alpha every texel has alpha 255 before rotation (R209). -/
theorem bc7Value_alpha {m : Bc7Mode} (h : (bc7Desc m).ab = 0) (f : Bc7Fields) (i : Nat) : bc7Value m f i .a = 255 := by
  rw [bc7Value, bc7Channel_alpha h, bc7Channel_alpha h, interpolate_self]

/-- A block of a mode without a rotation field has rotation 0 (R102). -/
theorem bc7FieldsOf_rot {m : Bc7Mode} (h : (bc7Desc m).rb = 0) (blk : Block) : (bc7FieldsOf m blk).rot = 0 := by
  have hlt : (bc7FieldsOf m blk).rot.toNat < 2 ^ (bc7Desc m).rb := (bc7Fields_wf_iff m _).1 (bc7FieldsOf_wf m blk) .rot
  rw [h] at hlt
  exact BitVec.eq_of_toNat_eq (Nat.lt_one_iff.1 hlt)

/-- Settles O37: modes 0 to 3 have no alpha and no rotation, so alpha stays the 255 of the endpoints. -/
theorem modesWithoutAlphaAreOpaque : Obligations.ModesWithoutAlphaAreOpaque := by
  unfold Obligations.ModesWithoutAlphaAreOpaque
  intro s t m hm hsel hexec i
  obtain ⟨hab, hrb⟩ : (bc7Desc m).ab = 0 ∧ (bc7Desc m).rb = 0 := by
    obtain rfl | rfl | rfl | rfl := hm <;> exact ⟨rfl, rfl⟩
  rw [exec_decbc7_valid s m (by rw [hsel, bc7ModeOfId_modeId])] at hexec
  have hbyte := bc7Output_parse m (bc7FieldsOf m s.blk) i 3
  rw [bc7FieldsOf_rot hrb, show rotatedFrom 0 (bc7Chan (3 : Fin 4).val) = .a from rfl, bc7Value_alpha hab] at hbyte
  simp only [(runBc7_next hexec).1]
  exact hbyte

end Sys2Proof.Machine
end

section
/-! PROOFS, 44_interpolator: the blend and its bounds (R231 to R233), the command INTERP (R234), and the index field
with its anchors (R236, R237). -/

namespace Sys2Proof.Machine

/-! ## The blend -/

/-- The first weight is 0 (R231). -/
theorem weight_zero (p : Nat) : weight p 0 = 0 := by
  unfold weight weightTable
  split <;> rfl

/-- The last weight is 64 (R231). -/
theorem weight_last {p : Nat} (hp : p = 2 ∨ p = 3 ∨ p = 4) : weight p (2 ^ p - 1) = 64 := by
  obtain rfl | rfl | rfl := hp <;> rfl

/-- At weight 0 the result is the first endpoint. -/
theorem interpolate_of_weight_zero (e0 e1 : Int) {idx prec : Nat} (h : weight prec idx = 0) :
    interpolate e0 e1 idx prec = e0 := by
  rw [interpolate, floorShr_eq, h]
  omega

/-- At weight 64 the result is the second endpoint. -/
theorem interpolate_of_weight_last (e0 e1 : Int) {idx prec : Nat} (h : weight prec idx = 64) :
    interpolate e0 e1 idx prec = e1 := by
  rw [interpolate, floorShr_eq, h]
  omega

/-- The weighted sum of two values between `lo` and `hi` lies between 64 times these bounds, the bias apart (R233). -/
theorem weightedSum_range {e0 e1 lo hi : Int} (h0 : lo ≤ e0 ∧ e0 ≤ hi) (h1 : lo ≤ e1 ∧ e1 ≤ hi) (p idx : Nat) :
    64 * lo + 32 ≤ (64 - (weight p idx : Int)) * e0 + weight p idx * e1 + 32 ∧
    (64 - (weight p idx : Int)) * e0 + weight p idx * e1 + 32 ≤ 64 * hi + 32 := by
  have hw0 : (0 : Int) ≤ 64 - weight p idx := sub_nonneg.2 (mod_cast weight_le p idx)
  have hw1 : (0 : Int) ≤ weight p idx := Int.natCast_nonneg _
  have hlo := add_le_add (mul_le_mul_of_nonneg_left h0.1 hw0) (mul_le_mul_of_nonneg_left h1.1 hw1)
  have hhi := add_le_add (mul_le_mul_of_nonneg_left h0.2 hw0) (mul_le_mul_of_nonneg_left h1.2 hw1)
  constructor <;> linarith

/-- Settles O24: the end weights are 0 and 64, and any interval that holds both endpoints holds the blend and, scaled
by 64, the weighted sum. -/
theorem interpolationStaysBetweenItsEndpoints : Obligations.InterpolationStaysBetweenItsEndpoints := by
  unfold Obligations.InterpolationStaysBetweenItsEndpoints
  intro p e0 e1 hp
  refine ⟨interpolate_of_weight_zero e0 e1 (weight_zero p), interpolate_of_weight_last e0 e1 (weight_last hp), ?_⟩
  intro idx _
  obtain ⟨hmin, hmax⟩ := interpolate_range (e0 := e0) (e1 := e1) ⟨min_le_left _ _, le_max_left _ _⟩
    ⟨min_le_right _ _, le_max_right _ _⟩ idx p
  refine ⟨hmin, hmax, ?_, ?_, ?_⟩
  · rintro rfl
    exact interpolate_self e0 idx p
  · rintro ⟨h0, h0', h1, h1'⟩
    exact interpolate_range ⟨h0, h0'⟩ ⟨h1, h1'⟩ idx p
  · rintro (⟨h0, h0', h1, h1'⟩ | ⟨h0, h0', h1, h1'⟩)
    all_goals
      have hsum := weightedSum_range ⟨h0, h0'⟩ ⟨h1, h1'⟩ p idx
      omega

/-! ## INTERP -/

theorem interpInDomain_iff (idx : BitVec 4) (prec : BitVec 3) :
    interpInDomain idx.toNat prec.toNat = true ↔
      (prec = 2 ∨ prec = 3 ∨ prec = 4) ∧ idx.toNat < 2 ^ prec.toNat := by
  have h2 : prec.toNat = 2 ↔ prec = 2 := BitVec.toNat_inj (y := 2)
  have h3 : prec.toNat = 3 ↔ prec = 3 := BitVec.toNat_inj (y := 3)
  have h4 : prec.toNat = 4 ↔ prec = 4 := BitVec.toNat_inj (y := 4)
  simp only [interpInDomain, Bool.and_eq_true, Bool.or_eq_true, beq_iff_eq, decide_eq_true_eq, h2, h3, h4, or_assoc]

/-- Settles O19: the weights of R231 are the printed ones, the floor shift by 6 is division by 64, every other IDX and
PREC fails the domain check, and INTERP reserves bits 31:11. -/
theorem interpBlendsTheOperands : Obligations.InterpBlendsTheOperands := by
  unfold Obligations.InterpBlendsTheOperands
  refine ⟨fun s idx prec hprec hidx => ?_, fun s idx prec hout => ?_,
    fun w hop => spells_of_reservedField hop rfl le_rfl commandOf_interp⟩
  · intro w v
    have hw : (weight prec.toNat idx.toNat : Int) = w := by
      obtain rfl | rfl | rfl := hprec
      all_goals exact (List.getD_map _ 0 Nat.cast).symm
    have hv : interpolate s.arg0.toInt s.arg1.toInt idx.toNat prec.toNat = v := by
      rw [interpolate, floorShr_eq, hw]
      rfl
    rw [exec_interp_inDomain idx prec s ((interpInDomain_iff idx prec).2 ⟨hprec, hidx⟩), hv, writeRes]
  · have hdom : interpInDomain idx.toNat prec.toNat = false := by
      rw [← Bool.not_eq_true, interpInDomain_iff]
      rintro ⟨hprec, hidx⟩
      obtain ⟨h2, h3, h4⟩ | hle := hout
      · exact hprec.elim h2 (Or.elim · h3 h4)
      · exact hidx.not_ge hle
    rw [exec_interp_outOfDomain idx prec s hdom]
    exact faultWith_faults .badOperand s

/-! ## Anchors of a partition -/

/-- The anchor of each subset lies in that subset (R151), a partition of one subset included. -/
theorem partitionTable_anchors_all {ns p : Nat} (h1 : 1 ≤ ns) (h3 : ns ≤ 3) (hp : p < 64) :
    (anchors ns p).map (partitionTable ns p) = List.range ns := by
  obtain rfl | hns : ns = 1 ∨ (ns = 2 ∨ ns = 3) := by omega
  · rfl
  · exact partitionTable_anchors hns hp

theorem partitionTable_lt_subsets {ns p i : Nat} (h1 : 1 ≤ ns) (h3 : ns ≤ 3) (hi : i < 16) :
    partitionTable ns p i < ns := by
  obtain rfl | rfl | rfl : ns = 1 ∨ ns = 2 ∨ ns = 3 := by omega
  · exact Nat.one_pos
  · exact romP2_lt p i hi
  · exact romP3_lt p i hi

theorem anchors_length {ns : Nat} (h1 : 1 ≤ ns) (h3 : ns ≤ 3) (p : Nat) : (anchors ns p).length = ns := by
  obtain rfl | rfl | rfl : ns = 1 ∨ ns = 2 ∨ ns = 3 := by omega
  all_goals rfl

/-- Anchors are different texels, a partition of one subset included. -/
theorem anchors_nodup_all {ns p : Nat} (h1 : 1 ≤ ns) (h3 : ns ≤ 3) (hp : p < 64) : (anchors ns p).Nodup := by
  obtain rfl | hns : ns = 1 ∨ (ns = 2 ∨ ns = 3) := by omega
  · exact List.nodup_singleton 0
  · exact anchors_nodup hns hp

/-- A texel is an anchor exactly when it is the anchor of its own subset (R156). -/
theorem mem_anchors_iff {ns p i : Nat} (h1 : 1 ≤ ns) (h3 : ns ≤ 3) (hp : p < 64) (hi : i < 16) :
    i ∈ anchors ns p ↔ (anchors ns p).getD (partitionTable ns p i) 0 = i := by
  constructor
  · intro hmem
    obtain ⟨k, hk, rfl⟩ := List.mem_iff_getElem.1 hmem
    have hown : partitionTable ns p (anchors ns p)[k] = k := by
      have hmap := partitionTable_anchors_all h1 h3 hp
      rw [← List.getElem_map (partitionTable ns p) (h := by simpa using hk)]
      simp only [hmap, List.getElem_range]
    rw [hown, List.getD_eq_getElem _ _ hk]
  · intro hown
    have hk : partitionTable ns p i < (anchors ns p).length := by
      rw [anchors_length h1 h3]
      exact partitionTable_lt_subsets h1 h3 hi
    rw [← hown, List.getD_eq_getElem _ _ hk]
    exact List.getElem_mem hk

/-! ## Anchors before a texel -/

/-- The entries below `i + 1` are those below `i` and those equal to `i`. -/
theorem countP_lt_succ (l : List Nat) (i : Nat) : l.countP (· < i + 1) = l.countP (· < i) + l.count i := by
  induction l with
  | nil => rfl
  | cons a l ih =>
    simp only [List.countP_cons, List.count_cons, ih, decide_eq_true_eq, beq_iff_eq]
    split_ifs <;> omega

theorem anchorsBefore_succ {ns p : Nat} (h : (anchors ns p).Nodup) (i : Nat) :
    (anchors ns p).countP (· < i + 1) = (anchors ns p).countP (· < i) + if i ∈ anchors ns p then 1 else 0 := by
  rw [countP_lt_succ, h.count]

/-- At most `i` of the texels before texel `i` are anchors. -/
theorem anchorsBefore_le {ns p : Nat} (h : (anchors ns p).Nodup) (i : Nat) :
    (anchors ns p).countP (· < i) ≤ i := by
  induction i with
  | zero => simp
  | succ i ih =>
    rw [anchorsBefore_succ h]
    split_ifs <;> omega

/-- All anchors lie before texel 16. -/
theorem anchorsBefore_sixteen (ns p : Nat) : (anchors ns p).countP (· < 16) = (anchors ns p).length :=
  List.countP_eq_length.2 fun _ ha => decide_eq_true (anchors_lt ha)

/-! ## The index field -/

theorem indexOffset_zero (w ns p : Nat) : indexOffset 0 w ns p = 0 := by
  rw [indexOffset, Nat.mul_zero, Nat.zero_sub]

/-- The part of a texel begins where the part before it ends. -/
theorem indexOffset_succ {w ns p : Nat} (hw : 1 ≤ w) (h : (anchors ns p).Nodup) (i : Nat) :
    indexOffset (i + 1) w ns p = indexOffset i w ns p + indexBits i w ns p := by
  have hle : (anchors ns p).countP (· < i) ≤ w * i :=
    (anchorsBefore_le h i).trans (Nat.le_mul_of_pos_left i hw)
  rw [indexOffset, indexOffset, indexBits, anchorsBefore_succ h, Nat.mul_succ]
  split_ifs <;> omega

/-- The parts end at bit `16W - |A|`. -/
theorem indexOffset_sixteen (w ns p : Nat) : indexOffset 16 w ns p = 16 * w - (anchors ns p).length := by
  rw [indexOffset, anchorsBefore_sixteen, Nat.mul_comm]

/-- With one subset, texel 0 is the only anchor. -/
theorem indexOffset_one_subset (w p : Nat) {i : Nat} (hi : 1 ≤ i) : indexOffset i w 1 p = w * i - 1 := by
  have hcount : (anchors 1 p).countP (· < i) = 1 :=
    List.countP_eq_length.2 fun a ha => by
      obtain rfl : a = 0 := List.mem_singleton.1 ha
      exact decide_eq_true hi
  rw [indexOffset, hcount]

theorem colorIndex_anchor_le {i ns p : Nat} (h : i ∈ anchors ns p) (w field : Nat) :
    colorIndex field i w ns p ≤ 2 ^ (w - 1) - 1 := by
  have hlt := colorIndex_lt field i w ns p
  rw [indexBits_anchor h] at hlt
  exact Nat.le_sub_one_of_lt hlt

/-- Settles O30: anchors are distinct, so each texel moves the offset by the bits it takes, and all of them lie below
16, so the field ends at bit `16W - |A|`. -/
theorem indicesTileTheField : Obligations.IndicesTileTheField := by
  unfold Obligations.IndicesTileTheField
  intro ns p w h1 h3 hp hw
  have hnodup := anchors_nodup_all h1 h3 hp
  have hlen := anchors_length h1 h3 p
  have hend : indexOffset 15 w ns p + indexBits 15 w ns p = 16 * w - ns := by
    rw [← indexOffset_succ hw hnodup, indexOffset_sixteen, hlen]
  exact ⟨hlen, indexOffset_zero w ns p, fun i _ => indexOffset_succ hw hnodup i, hend,
    fun i hi => mem_anchors_iff h1 h3 hp hi, fun field i j => colorIndex_testBit field i w ns p j,
    fun i hi => indexBits_anchor hi, fun i hi field => colorIndex_anchor_le hi w field,
    fun i _ hi => indexBits_other hi, fun i hi _ => indexOffset_one_subset w p hi, fun hw4 => by omega⟩

end Sys2Proof.Machine
end

section
/-! PROOFS, 45_quant_scaler: BC7 endpoint expansion (R262, R263) and the command EXPAND7 (R264). -/

namespace Sys2Proof.Machine

/-! ## Expansion -/

/-- The replicated top bits fill exactly the place the shift leaves (R262). -/
theorem replicatedBits_lt {n v : Nat} (h4 : 4 ≤ n) (h8 : n ≤ 8) (hv : v < 2 ^ n) :
    v / 2 ^ (2 * n - 8) < 2 ^ (8 - n) := by
  have hsplit : 2 * n - 8 + (8 - n) = n := by omega
  rwa [Nat.div_lt_iff_lt_mul (Nat.two_pow_pos _), Nat.mul_comm, ← pow_add, hsplit]

/-- Bit replication is a sum: the shifted value and the replicated bits share no bit (R262). -/
theorem expand7_eq_add {n v : Nat} (h4 : 4 ≤ n) (h8 : n ≤ 8) (hv : v < 2 ^ n) :
    expand7 v n = v * 2 ^ (8 - n) + v / 2 ^ (2 * n - 8) := by
  rw [expand7_eq, ← Nat.shiftLeft_eq, Nat.shiftLeft_add_eq_or_of_lt (replicatedBits_lt h4 h8 hv)]

/-- The top `n` bits of the expansion are the value (R263). -/
theorem expand7_div {n v : Nat} (h4 : 4 ≤ n) (h8 : n ≤ 8) (hv : v < 2 ^ n) : expand7 v n / 2 ^ (8 - n) = v := by
  rw [expand7_eq_add h4 h8 hv, Nat.mul_comm, Nat.mul_add_div (Nat.two_pow_pos _),
    Nat.div_eq_of_lt (replicatedBits_lt h4 h8 hv), Nat.add_zero]

/-- A larger value has larger top bits, so a larger expansion (R263). -/
theorem expand7_strictMono {n v v' : Nat} (h4 : 4 ≤ n) (h8 : n ≤ 8) (hv : v < 2 ^ n) (hlt : v' < v) :
    expand7 v' n < expand7 v n := by
  by_contra hle
  have hdiv := Nat.div_le_div_right (c := 2 ^ (8 - n)) (not_lt.1 hle)
  rw [expand7_div h4 h8 hv, expand7_div h4 h8 (hlt.trans hv)] at hdiv
  exact hlt.not_ge hdiv

/-- The largest value expands to the largest byte (R263). -/
theorem expand7_max {n : Nat} (h4 : 4 ≤ n) (h8 : n ≤ 8) : expand7 (2 ^ n - 1) n = 255 := by
  obtain rfl | rfl | rfl | rfl | rfl : n = 4 ∨ n = 5 ∨ n = 6 ∨ n = 7 ∨ n = 8 := by omega
  all_goals rfl

/-- Eight bits are kept as they are (R263). -/
theorem expand7_eight {v : Nat} (hv : v < 2 ^ 8) : expand7 v 8 = v := by
  simpa using expand7_div (by decide) le_rfl hv

/-- Settles O29: the top bits of the expansion are the value, and strict growth follows from that. -/
theorem expansionProperties : Obligations.ExpansionProperties := by
  unfold Obligations.ExpansionProperties
  intro n v h4 h8 hv
  refine ⟨?_, expand7_max h4 h8, expand7_div h4 h8 hv, expand7_lt hv h8, ?_,
    fun v' hlt => expand7_strictMono h4 h8 hv hlt⟩
  · rw [expand7_eq_add h4 h8 (Nat.two_pow_pos n), Nat.zero_mul, Nat.zero_div]
  · rintro rfl
    exact expand7_eight hv

/-! ## EXPAND7 -/

theorem expand7InDomain_iff (n v : Nat) : expand7InDomain n v = true ↔ 4 ≤ n ∧ n ≤ 8 ∧ v < 2 ^ n := by
  simp only [expand7InDomain, Bool.and_eq_true, decide_eq_true_eq, and_assoc]

/-- Settles O22: replication is a sum, every other N and V fails the domain check, and EXPAND7 reserves bits
31:16. -/
theorem expand7ReplicatesTheBits : Obligations.Expand7ReplicatesTheBits := by
  unfold Obligations.Expand7ReplicatesTheBits
  refine ⟨fun s n v h4 h8 hv => ?_, fun s n v hout => ?_,
    fun w hop => spells_of_reservedField hop rfl le_rfl commandOf_expand7⟩
  · rw [exec_expand7_inDomain n v s ((expand7InDomain_iff _ _).2 ⟨h4, h8, hv⟩), expand7_eq_add h4 h8 hv]
    rfl
  · have hdom : expand7InDomain n.toNat v.toNat = false := by
      rw [← Bool.not_eq_true, expand7InDomain_iff]
      omega
    rw [exec_expand7_outOfDomain n v s hdom]
    exact faultWith_faults .badOperand s

end Sys2Proof.Machine
end

section
/-! PROOFS, 45_quant_scaler: BC6H unquantization (R251 to R253) and the command UNQ6 (R256). -/

namespace Sys2Proof.Machine

/-! ## The magnitude of the signed unquantizer -/

@[simp] theorem unquantizeMag_zero (n : Nat) : unquantizeMag 0 n = 0 := if_pos rfl

/-- From the largest magnitude on, the result saturates (R251). -/
theorem unquantizeMag_saturated {m n : Nat} (h0 : m ≠ 0) (h : 2 ^ (n - 1) - 1 ≤ m) : unquantizeMag m n = 0x7FFF := by
  rw [unquantizeMag, if_neg h0, if_pos h]

/-- Below the largest magnitude, the result is scaled (R251). -/
theorem unquantizeMag_scaled {m n : Nat} (h0 : m ≠ 0) (h : ¬ 2 ^ (n - 1) - 1 ≤ m) :
    unquantizeMag m n = (m * 2 ^ 15 + 0x4000) / 2 ^ (n - 1) := by
  rw [unquantizeMag, if_neg h0, if_neg h, Nat.shiftLeft_eq, Nat.shiftRight_eq_div_pow]

theorem unquantizeMag_le (m n : Nat) : unquantizeMag m n ≤ 0x7FFF := by
  by_cases h0 : m = 0
  · simp [h0]
  by_cases h : 2 ^ (n - 1) - 1 ≤ m
  · exact (unquantizeMag_saturated h0 h).le
  · rw [unquantizeMag_scaled h0 h, ← Nat.lt_succ_iff, Nat.div_lt_iff_lt_mul (Nat.two_pow_pos _)]
    omega

theorem unquantizeMag_mono (n : Nat) {m m' : Nat} (h : m ≤ m') : unquantizeMag m n ≤ unquantizeMag m' n := by
  by_cases h0 : m = 0
  · simp [h0]
  have h0' : m' ≠ 0 := by omega
  by_cases hsat : 2 ^ (n - 1) - 1 ≤ m'
  · exact unquantizeMag_saturated h0' hsat ▸ unquantizeMag_le m n
  · rw [unquantizeMag_scaled h0' hsat, unquantizeMag_scaled h0 fun hm => hsat (hm.trans h)]
    exact Nat.div_le_div_right (by omega)

/-- The magnitude of a nonzero operand as the spec writes it, on integers (R251). -/
theorem unquantizeMag_natAbs {v : Int} (h0 : v ≠ 0) (n : Nat) :
    (unquantizeMag v.natAbs n : Int) =
      if 2 ^ (n - 1) - 1 ≤ |v| then 0x7FFF else (|v| * 32768 + 0x4000) / 2 ^ (n - 1) := by
  have h0' : v.natAbs ≠ 0 := Int.natAbs_ne_zero.2 h0
  have hle : (2 : Int) ^ (n - 1) - 1 ≤ |v| ↔ 2 ^ (n - 1) - 1 ≤ v.natAbs := by
    rw [Int.abs_eq_natAbs, sub_le_iff_le_add, Nat.sub_le_iff_le_add]
    exact_mod_cast Iff.rfl
  by_cases h : 2 ^ (n - 1) - 1 ≤ v.natAbs
  · rw [unquantizeMag_saturated h0' h, if_pos (hle.2 h)]
    rfl
  · rw [unquantizeMag_scaled h0' h, if_neg (mt hle.1 h), Int.abs_eq_natAbs]
    push_cast
    rfl

/-! ## Signed -/

theorem unquantizeSigned_wide (v : Int) {n : Nat} (h : 16 ≤ n) : unquantizeSigned v n = v := if_pos h

/-- Below 16 bits the sign is taken off and put back (R251). -/
theorem unquantizeSigned_narrow (v : Int) {n : Nat} (h : n < 16) :
    unquantizeSigned v n = v.sign * unquantizeMag v.natAbs n := by
  rw [unquantizeSigned, if_neg (by omega)]
  obtain hv | rfl | hv := lt_trichotomy v 0
  · rw [if_pos hv, Int.sign_eq_neg_one_of_neg hv, neg_one_mul]
  · simp
  · rw [if_neg hv.not_gt, Int.sign_eq_one_of_pos hv, one_mul]

theorem unquantizeSigned_nonneg {v : Int} {n : Nat} (h : n < 16) (hv : 0 ≤ v) :
    unquantizeSigned v n = unquantizeMag v.natAbs n := by
  rw [unquantizeSigned, if_neg (by omega), if_neg hv.not_gt]

/-- Signed unquantization is odd (R253). -/
theorem unquantizeSigned_neg (v : Int) (n : Nat) : unquantizeSigned (-v) n = -unquantizeSigned v n := by
  obtain h | h := lt_or_ge n 16
  · rw [unquantizeSigned_narrow _ h, unquantizeSigned_narrow _ h, Int.sign_neg, Int.natAbs_neg, neg_mul]
  · rw [unquantizeSigned_wide _ h, unquantizeSigned_wide _ h]

theorem unquantizeSigned_mono_nonneg (n : Nat) {v v' : Int} (hv : 0 ≤ v) (h : v ≤ v') :
    unquantizeSigned v n ≤ unquantizeSigned v' n := by
  obtain hn | hn := lt_or_ge n 16
  · rw [unquantizeSigned_nonneg hn hv, unquantizeSigned_nonneg hn (hv.trans h)]
    exact_mod_cast unquantizeMag_mono n (by omega)
  · rwa [unquantizeSigned_wide _ hn, unquantizeSigned_wide _ hn]

@[simp] theorem unquantizeSigned_zero (n : Nat) : unquantizeSigned 0 n = 0 := by
  simp [unquantizeSigned]

/-- Signed unquantization is monotone: it is on the nonnegative values, and it is odd (R253). -/
theorem unquantizeSigned_mono (n : Nat) {v v' : Int} (h : v ≤ v') :
    unquantizeSigned v n ≤ unquantizeSigned v' n := by
  obtain hv | hv := le_total 0 v
  · exact unquantizeSigned_mono_nonneg n hv h
  · have hneg := unquantizeSigned_neg v n
    obtain hv' | hv' := le_total 0 v'
    · have h1 := unquantizeSigned_mono_nonneg n le_rfl hv'
      have h2 := unquantizeSigned_mono_nonneg n le_rfl (neg_nonneg.2 hv)
      rw [unquantizeSigned_zero] at h1 h2
      omega
    · have h1 := unquantizeSigned_mono_nonneg n (neg_nonneg.2 hv') (neg_le_neg h)
      rw [unquantizeSigned_neg, unquantizeSigned_neg] at h1
      exact neg_le_neg_iff.1 h1

/-- Below 16 bits the result is a 15-bit magnitude with a sign (R251). -/
theorem unquantizeSigned_range (v : Int) {n : Nat} (h : n < 16) :
    -0x7FFF ≤ unquantizeSigned v n ∧ unquantizeSigned v n ≤ 0x7FFF := by
  have hm := unquantizeMag_le v.natAbs n
  rw [unquantizeSigned, if_neg (by omega)]
  split_ifs <;> omega

/-- The largest magnitude saturates (R253). -/
theorem unquantizeSigned_saturated {v : Int} {n : Nat} (hn : n < 16) (h0 : 0 < v) (h : 2 ^ (n - 1) - 1 ≤ v) :
    unquantizeSigned v n = 0x7FFF := by
  rw [unquantizeSigned_narrow v hn, Int.sign_eq_one_of_pos h0, one_mul, unquantizeMag_natAbs h0.ne',
    if_pos (h.trans (le_abs_self v))]

/-! ## Unsigned -/

theorem unquantizeUnsigned_wide (v : Int) {n : Nat} (h : 15 ≤ n) : unquantizeUnsigned v n = v := if_pos h

@[simp] theorem unquantizeUnsigned_zero (n : Nat) : unquantizeUnsigned 0 n = 0 := by
  simp [unquantizeUnsigned]

/-- The largest value gives the largest result (R252). -/
theorem unquantizeUnsigned_max {n : Nat} (h1 : 1 ≤ n) (h : n < 15) : unquantizeUnsigned (2 ^ n - 1) n = 0xFFFF := by
  have hpow : (2 : Int) ^ 1 ≤ 2 ^ n := pow_le_pow_right₀ (by decide) h1
  rw [unquantizeUnsigned, if_neg (by omega), if_neg (by omega), if_pos (by push_cast; rfl)]

/-- Between 0 and the largest value, the result is scaled (R252). -/
theorem unquantizeUnsigned_scaled {v : Int} {n : Nat} (h : n < 15) (h0 : v ≠ 0) (hmax : v ≠ 2 ^ n - 1) :
    unquantizeUnsigned v n = (v * 65536 + 0x8000) / 2 ^ n := by
  rw [unquantizeUnsigned, if_neg (by omega), if_neg h0, if_neg (by push_cast; exact hmax), floorShr_eq]

/-- The result is in 0..0xFFFF (R252). -/
theorem unquantizeUnsigned_range {v : Int} {n : Nat} (h1 : 1 ≤ n) (hn : n ≤ 16) (h0 : 0 ≤ v) (hv : v ≤ 2 ^ n - 1) :
    0 ≤ unquantizeUnsigned v n ∧ unquantizeUnsigned v n ≤ 0xFFFF := by
  obtain h | h := lt_or_ge n 15
  · by_cases hz : v = 0
    · simp [hz]
    by_cases hmax : v = 2 ^ n - 1
    · simp [hmax, unquantizeUnsigned_max h1 h]
    · rw [unquantizeUnsigned_scaled h hz hmax]
      refine ⟨Int.ediv_nonneg (by omega) (by positivity), ?_⟩
      rw [← Int.lt_add_one_iff, Int.ediv_lt_iff_lt_mul (by positivity)]
      omega
  · have hpow : (2 : Int) ^ n ≤ 2 ^ 16 := pow_le_pow_right₀ (by decide) hn
    rw [unquantizeUnsigned_wide v h]
    exact ⟨h0, by omega⟩

/-- Unsigned unquantization is monotone (R253). -/
theorem unquantizeUnsigned_mono {v v' : Int} {n : Nat} (h1 : 1 ≤ n) (hn : n ≤ 16) (h0 : 0 ≤ v) (hle : v ≤ v')
    (hv' : v' ≤ 2 ^ n - 1) : unquantizeUnsigned v n ≤ unquantizeUnsigned v' n := by
  obtain h | h := lt_or_ge n 15
  · by_cases hz : v = 0
    · rw [hz, unquantizeUnsigned_zero]
      exact (unquantizeUnsigned_range h1 hn (h0.trans hle) hv').1
    by_cases hmax : v' = 2 ^ n - 1
    · rw [hmax, unquantizeUnsigned_max h1 h]
      exact (unquantizeUnsigned_range h1 hn h0 (hle.trans hv')).2
    · rw [unquantizeUnsigned_scaled h hz (by omega), unquantizeUnsigned_scaled h (by omega) hmax]
      exact Int.ediv_le_ediv (by positivity) (by omega)
  · rwa [unquantizeUnsigned_wide v h, unquantizeUnsigned_wide v' h]

/-! ## Both -/

@[simp] theorem unquantize6_signed (v : Int) (n : Nat) : unquantize6 v n true = unquantizeSigned v n := rfl
@[simp] theorem unquantize6_unsigned (v : Int) (n : Nat) : unquantize6 v n false = unquantizeUnsigned v n := rfl

/-- Settles O25: the signed function is a monotone magnitude with the sign put back; the unsigned one is monotone
between its two ends. -/
theorem unquantizationProperties : Obligations.UnquantizationProperties := by
  unfold Obligations.UnquantizationProperties
  intro n h1 h16
  have hpos : (0 : Int) < 2 ^ (n - 1) := by positivity
  refine ⟨?_, fun hn hne => ?_, unquantizeUnsigned_max h1, fun v v' => unquantizeUnsigned_mono h1 h16,
    fun v v' _ hle _ => unquantizeSigned_mono n hle, fun v _ => unquantizeSigned_neg v n, fun hn => ?_⟩
  · rintro (_ | _)
    · exact unquantizeUnsigned_zero n
    · exact unquantizeSigned_zero n
  · have hpow : (2 : Int) ^ 1 ≤ 2 ^ (n - 1) := pow_le_pow_right₀ (by decide) (by omega)
    exact unquantizeSigned_saturated hn (by omega) le_rfl
  · rw [unquantize6_signed, unquantizeSigned_neg, unquantizeSigned_saturated hn hpos (by omega)]

/-! ## UNQ6 -/

theorem unq6InDomain_unsigned (n : Nat) (v : Int) :
    unq6InDomain n false v = true ↔ 1 ≤ n ∧ n ≤ 16 ∧ 0 ≤ v ∧ v ≤ 2 ^ n - 1 := by
  simp [unq6InDomain, and_assoc]

theorem unq6InDomain_signed (n : Nat) (v : Int) :
    unq6InDomain n true v = true ↔ 1 ≤ n ∧ n ≤ 16 ∧ -(2 ^ (n - 1)) ≤ v ∧ v ≤ 2 ^ (n - 1) - 1 := by
  simp [unq6InDomain, and_assoc]

/-- Unsigned unquantization as the spec writes it (R252). -/
theorem unquantizeUnsigned_eq (v : Int) (n : Nat) : unquantizeUnsigned v n =
    if 15 ≤ n then v else if v = 0 then 0 else if v = 2 ^ n - 1 then 0xFFFF
      else (v * 65536 + 0x8000) / 2 ^ n := by
  simp [unquantizeUnsigned, floorShr_eq]

/-- Signed unquantization as the spec writes it (R251). -/
theorem unquantizeSigned_eq (v : Int) (n : Nat) : unquantizeSigned v n =
    if 16 ≤ n then v else if v = 0 then 0
      else v.sign * (if 2 ^ (n - 1) - 1 ≤ |v| then 0x7FFF else (|v| * 32768 + 0x4000) / 2 ^ (n - 1)) := by
  by_cases h : 16 ≤ n
  · rw [if_pos h, unquantizeSigned_wide v h]
  by_cases hz : v = 0
  · rw [if_neg h, if_pos hz, hz, unquantizeSigned_zero]
  · rw [if_neg h, if_neg hz, unquantizeSigned_narrow v (not_le.1 h), unquantizeMag_natAbs hz]

/-- A one-bit field as a flag is the bit (R75). -/
theorem flagOf_extract (w : Word) (k : Nat) : flagOf (w.extractLsb' k 1) = w.getLsbD k := by
  have hbit : w.extractLsb' k 1 = BitVec.ofBool (w.getLsbD k) := by
    ext j hj
    obtain rfl := Nat.lt_one_iff.1 hj
    simp
  rw [hbit]
  cases w.getLsbD k <;> rfl

/-- Settles O20: both functions in the spec's form; every other N and ARG0 fails the domain check, and UNQ6 reserves
bits 31:10. -/
theorem unq6UnquantizesTheOperand : Obligations.Unq6UnquantizesTheOperand := by
  unfold Obligations.Unq6UnquantizesTheOperand
  refine ⟨?_, ?_, fun w hop => ?_⟩
  · intro s n h1 h16 v
    refine ⟨fun h0 hv => ?_, fun h0 hv => ?_⟩
    · rw [exec_unq6_inDomain n false s ((unq6InDomain_unsigned _ _).2 ⟨h1, h16, h0, hv⟩), unquantize6_unsigned,
        unquantizeUnsigned_eq, writeRes]
    · rw [exec_unq6_inDomain n true s ((unq6InDomain_signed _ _).2 ⟨h1, h16, h0, hv⟩), unquantize6_signed,
        unquantizeSigned_eq, writeRes]
  · intro s n sg v hout
    have hzero : n = 0 → n.toNat = 0 := congrArg BitVec.toNat
    have hdom : unq6InDomain n.toNat sg s.arg0.toInt = false := by
      rw [← Bool.not_eq_true]
      cases sg with
      | false =>
        rw [unq6InDomain_unsigned]
        grind
      | true =>
        rw [unq6InDomain_signed]
        grind
    rw [exec_unq6_outOfDomain n sg s hdom]
    exact faultWith_faults .badOperand s
  · rw [← flagOf_extract]
    exact spells_of_reservedField hop rfl le_rfl commandOf_unq6

end Sys2Proof.Machine
end

section
/-! PROOFS, 45_quant_scaler: the final conversion to a half (R257 to R259) and the command FINISH (R260). -/

namespace Sys2Proof.Machine

/-! ## The final scale -/

/-- The signed final scale as the spec writes it (R257). -/
theorem finishScale_eq (x : Int) : finishScale x = x.sign * (|x| * 31 / 32) := by
  rw [finishScale, Nat.shiftRight_eq_div_pow, Int.abs_eq_natAbs]
  push_cast
  rfl

theorem finishScale_nonneg {x : Int} (h : 0 ≤ x) : finishScale x = x * 31 / 32 := by
  obtain rfl | h := h.eq_or_lt
  · rfl
  · rw [finishScale_eq, Int.sign_eq_one_of_pos h, one_mul, abs_of_pos h]

theorem finishScale_neg (x : Int) : finishScale (-x) = -finishScale x := by
  rw [finishScale_eq, finishScale_eq, Int.sign_neg, abs_neg, neg_mul]

/-- The scale shrinks every magnitude below 2^15 to one of 0x7BFF at most (R259). -/
theorem abs_finishScale_le {x : Int} (h : |x| ≤ 0x7FFF) : |finishScale x| ≤ 0x7BFF := by
  obtain ⟨hlo, hhi⟩ := abs_le.1 h
  rw [abs_le]
  obtain hx | hx := le_total 0 x
  · rw [finishScale_nonneg hx]
    omega
  · have hneg := finishScale_neg x
    rw [finishScale_nonneg (neg_nonneg.2 hx)] at hneg
    omega

/-! ## Half patterns -/

theorem toNat_ofInt_of_range {f : Int} (h0 : 0 ≤ f) (h : f < 2 ^ 16) : (BitVec.ofInt 16 f).toNat = f.toNat := by
  rw [BitVec.toNat_ofInt, Int.emod_eq_of_lt h0 (mod_cast h)]

/-- A half whose pattern below the sign is at most 0x7BFF is finite (R255, R259). -/
theorem halfExponent_ne {h : BitVec 16} (hle : h.toNat % 0x8000 ≤ 0x7BFF) : h.extractLsb' 10 5 ≠ 31#5 := by
  intro he
  have hexp : h.toNat / 2 ^ 10 % 2 ^ 5 = 31 := by
    rw [← Nat.shiftRight_eq_div_pow, ← BitVec.extractLsb'_toNat, he]
    rfl
  omega

/-- The unsigned conversion as the spec writes it (R257). -/
theorem finishUnquantize_unsigned (enc : NegEncoding) (x : Int) :
    finishUnquantize enc x false = BitVec.ofInt 16 (x * 31 / 64) := by
  rw [finishUnquantize, if_neg Bool.false_ne_true, floorShr_eq]
  rfl

theorem finishUnquantize_signed (enc : NegEncoding) (x : Int) :
    finishUnquantize enc x true = halfPattern enc (finishScale x) := rfl

/-- The unsigned conversion stays below the infinity (R259). -/
theorem finishUnquantize_unsigned_le (enc : NegEncoding) {x : Int} (h0 : 0 ≤ x) (h : x ≤ 0xFFFF) :
    (finishUnquantize enc x false).toNat ≤ 0x7BFF := by
  have hf0 : 0 ≤ x * 31 / 64 := by omega
  have hf : x * 31 / 64 ≤ 0x7BFF := by omega
  rw [finishUnquantize_unsigned, toNat_ofInt_of_range hf0 (by omega)]
  omega

theorem halfPattern_nonneg (enc : NegEncoding) {f : Int} (h : 0 ≤ f) : halfPattern enc f = BitVec.ofInt 16 f := by
  cases enc with
  | signMagnitude => exact if_neg h.not_gt
  | twosComplement => rfl

/-- Under SIGN_MAGNITUDE a negative result is the sign bit on top of its magnitude (R258). -/
theorem halfPattern_neg {f : Int} (h : f < 0) (hf : |f| < 0x8000) :
    halfPattern .signMagnitude f = BitVec.ofInt 16 (0x8000 + |f|) := by
  rw [Int.abs_eq_natAbs] at hf ⊢
  have hlt : f.natAbs < 2 ^ 15 := by omega
  have hor : 0x8000 ||| f.natAbs = 0x8000 + f.natAbs := (Nat.shiftLeft_add_eq_or_of_lt hlt 1).symm
  rw [halfPattern, if_pos h]
  apply BitVec.eq_of_toNat_eq
  rw [BitVec.toNat_or, BitVec.toNat_ofNat, BitVec.toNat_ofInt, Nat.mod_eq_of_lt (by omega)]
  change 0x8000 ||| f.natAbs = _
  omega

/-- Under SIGN_MAGNITUDE the pattern below the sign is the magnitude (R258). -/
theorem halfPattern_magnitude {f : Int} (hf : |f| < 0x8000) :
    (halfPattern .signMagnitude f).toNat % 0x8000 = f.natAbs := by
  obtain h | h := lt_or_ge f 0
  · rw [halfPattern_neg h hf]
    rw [Int.abs_eq_natAbs] at hf ⊢
    rw [toNat_ofInt_of_range (by omega) (by omega)]
    omega
  · rw [abs_of_nonneg h] at hf
    rw [halfPattern_nonneg _ h, toNat_ofInt_of_range h (by omega)]
    omega

/-- Under SIGN_MAGNITUDE the signed conversion of a 15-bit magnitude is a finite half (R259). -/
theorem finishUnquantize_signed_finite {x : Int} (h : |x| ≤ 0x7FFF) :
    (finishUnquantize .signMagnitude x true).extractLsb' 10 5 ≠ 31#5 := by
  have hf := abs_finishScale_le h
  refine halfExponent_ne ?_
  rw [finishUnquantize_signed, halfPattern_magnitude (hf.trans_lt (by decide))]
  rw [Int.abs_eq_natAbs] at hf
  omega

/-- The one 16-bit value whose conversion leaves the finite halves (R259). -/
theorem finishUnquantize_min : finishUnquantize .signMagnitude (-32768) true = 0xFC00 := by decide

/-- Settles O26: both scales keep the magnitude at 0x7BFF or below, and -32768 is the one value beyond. -/
theorem halfOutputRanges : Obligations.HalfOutputRanges := by
  unfold Obligations.HalfOutputRanges
  refine ⟨fun enc x h0 h => ?_, by decide, fun x hlo hhi => ?_, finishUnquantize_min, by decide⟩
  · have hle := finishUnquantize_unsigned_le enc h0 h
    exact ⟨hle, Nat.testBit_lt_two_pow (by omega)⟩
  · have hx : |x| ≤ 0x7FFF := abs_le.2 ⟨hlo, hhi⟩
    exact ⟨abs_finishScale_le hx, finishUnquantize_signed_finite hx⟩

/-! ## FINISH -/

theorem finishInDomain_unsigned (x : Int) : finishInDomain false x = true ↔ 0 ≤ x ∧ x ≤ 0xFFFF := by
  simp [finishInDomain]

theorem finishInDomain_signed (x : Int) : finishInDomain true x = true ↔ -32768 ≤ x ∧ x ≤ 32767 := by
  simp [finishInDomain]

/-- RES of FINISH as one concatenation (R260). -/
theorem finishResult_eq (h : BitVec 16) : finishResult h = widenHalf h ++ 0#16 ++ h := by
  rw [finishResult, BitVec.setWidth_eq_append (by decide), BitVec.append_assoc]
  rfl

/-- The signed conversion as the spec writes it, for both encodings (R257, R258). -/
theorem finishUnquantize_signed_eq (enc : NegEncoding) {x : Int} (hlo : -32768 ≤ x) (hhi : x ≤ 32767) :
    let f := x.sign * (|x| * 31 / 32)
    finishUnquantize enc x true =
      if enc = .signMagnitude ∧ f < 0 then BitVec.ofInt 16 (0x8000 + |f|) else BitVec.ofInt 16 f := by
  intro f
  have hf : |f| < 0x8000 := by
    obtain rfl | h := hlo.eq_or_lt
    · decide
    · have hle := abs_finishScale_le (abs_le.2 ⟨h, hhi⟩)
      rw [finishScale_eq] at hle
      exact hle.trans_lt (by decide)
  rw [finishUnquantize_signed, show finishScale x = f from finishScale_eq x]
  cases enc with
  | twosComplement => rfl
  | signMagnitude =>
    obtain h | h := lt_or_ge f 0
    · rw [halfPattern_neg h hf, if_pos ⟨rfl, h⟩]
    · rw [halfPattern_nonneg _ h, if_neg fun hneg => hneg.2.not_ge h]

/-- Settles O21: both conversions in the spec's form; every other ARG0 fails the domain check, and FINISH reserves
bits 31:5. -/
theorem finishConvertsTheOperand : Obligations.FinishConvertsTheOperand := by
  unfold Obligations.FinishConvertsTheOperand
  refine ⟨?_, ?_, fun w hop => ?_⟩
  · intro s x
    refine ⟨fun h0 hx => ?_, fun h0 hx => ?_⟩
    · rw [exec_finish_inDomain false s ((finishInDomain_unsigned _).2 ⟨h0, hx⟩), finishUnquantize_unsigned,
        finishResult_eq, writeRes]
    · rw [exec_finish_inDomain true s ((finishInDomain_signed _).2 ⟨h0, hx⟩), finishUnquantize_signed_eq _ h0 hx,
        finishResult_eq, writeRes]
  · intro s sg x hout
    have hdom : finishInDomain sg s.arg0.toInt = false := by
      rw [← Bool.not_eq_true]
      cases sg with
      | false =>
        rw [finishInDomain_unsigned]
        grind
      | true =>
        rw [finishInDomain_signed]
        grind
    rw [exec_finish_outOfDomain sg s hdom]
    exact faultWith_faults .badOperand s
  · rw [← flagOf_extract]
    exact spells_of_reservedField hop rfl le_rfl commandOf_finish

end Sys2Proof.Machine
end

section
/-! PROOFS, 45_quant_scaler: the widening of a half to binary32 (R255). -/

namespace Sys2Proof.Machine

/-! ## The fields of a widened half -/

/-- The binary32 pattern that a half widens to: 10 fraction bits above 13 zeros (R255). -/
def widePattern (s : BitVec 1) (e : BitVec 8) (m : BitVec 10) : Word := s ++ e ++ m ++ 0#13

/-- The exponent of the widening, from the half's exponent and fraction (R255). -/
def wideExponent (e m : Nat) : Nat :=
  if e = 0 then (if m = 0 then 0 else 113 - subnormalShift m) else if e = 31 then 0xFF else e + 112

/-- The upper 10 fraction bits of the widening: a subnormal's fraction loses its leading one (R255). -/
def wideFraction (e m : Nat) : Nat := if e = 0 then m * 2 ^ subnormalShift m % 1024 else m

theorem packSingle_eq_widePattern (s : BitVec 1) {e m : Nat} (he : e < 2 ^ 8) (hm : m < 2 ^ 10) :
    packSingle s.toNat e (m <<< 13) = widePattern s (BitVec.ofNat 8 e) (BitVec.ofNat 10 m) := by
  apply BitVec.eq_of_toNat_eq
  have hw : (widePattern s (BitVec.ofNat 8 e) (BitVec.ofNat 10 m)).toNat =
      s.toNat <<< 31 ||| e <<< 23 ||| m <<< 13 := by
    simp only [widePattern, BitVec.toNat_append, BitVec.toNat_ofNat, Nat.mod_eq_of_lt he, Nat.mod_eq_of_lt hm,
      Nat.shiftLeft_or_distrib, ← Nat.shiftLeft_add, Nat.zero_mod, Nat.or_zero]
  rw [hw, packSingle, BitVec.toNat_ofNat, Nat.mod_eq_of_lt]
  rw [← hw]
  exact BitVec.isLt _

/-- The shift of a subnormal moves its leading one to the hidden bit (R255). -/
theorem subnormalShift_spec {m : Nat} (h0 : m ≠ 0) (h : m < 1024) :
    1 ≤ subnormalShift m ∧ subnormalShift m ≤ 10 ∧
      1024 ≤ m * 2 ^ subnormalShift m ∧ m * 2 ^ subnormalShift m < 2048 := by
  obtain ⟨hlz, hlo, hhi⟩ := leadingZeros_spec 10 m (Nat.pos_of_ne_zero h0) h
  rw [subnormalShift, pow_succ, ← mul_assoc]
  omega

/-! ### By class -/

theorem wideExponent_subnormal {m : Nat} (hm : m ≠ 0) : wideExponent 0 m = 113 - subnormalShift m := if_neg hm

theorem wideFraction_subnormal {m : Nat} (h0 : m ≠ 0) (h : m < 1024) :
    wideFraction 0 m = m * 2 ^ subnormalShift m - 1024 := by
  obtain ⟨-, -, hlo, hhi⟩ := subnormalShift_spec h0 h
  rw [wideFraction, if_pos rfl]
  omega

theorem wideExponent_normal {e : Nat} (m : Nat) (h0 : e ≠ 0) (h31 : e ≠ 31) : wideExponent e m = e + 112 := by
  rw [wideExponent, if_neg h0, if_neg h31]

/-- An infinity or a NaN keeps the exponent of all ones (R255). -/
theorem wideExponent_special (m : Nat) : wideExponent 31 m = 0xFF := rfl

theorem wideFraction_of_ne {e : Nat} (m : Nat) (h0 : e ≠ 0) : wideFraction e m = m := if_neg h0

/-! ### Ranges -/

theorem wideExponent_lt {e : Nat} (m : Nat) (he : e < 32) : wideExponent e m < 2 ^ 8 := by
  unfold wideExponent
  split_ifs <;> omega

theorem wideFraction_lt (e : Nat) {m : Nat} (hm : m < 1024) : wideFraction e m < 2 ^ 10 := by
  unfold wideFraction
  split_ifs <;> omega

/-- Only an infinity or a NaN has the largest exponent (R255). -/
theorem wideExponent_eq_max_iff {e : Nat} (m : Nat) (he : e < 32) : wideExponent e m = 0xFF ↔ e = 31 := by
  constructor
  · intro hmax
    unfold wideExponent at hmax
    split_ifs at hmax <;> omega
  · rintro rfl
    exact wideExponent_special m

/-- A subnormal half has a normal widening (R255). -/
theorem wideExponent_zero_eq_zero_iff {m : Nat} (hm : m < 1024) : wideExponent 0 m = 0 ↔ m = 0 := by
  constructor
  · intro hzero
    by_contra hz
    obtain ⟨-, hk, -, -⟩ := subnormalShift_spec hz hm
    rw [wideExponent_subnormal hz] at hzero
    omega
  · rintro rfl
    rfl

/-- The widened fields determine the half's (R255: every half has one image of its own). -/
theorem wideFields_injective {e m e' m' : Nat} (he : e < 32) (hm : m < 1024) (he' : e' < 32) (hm' : m' < 1024)
    (hexp : wideExponent e m = wideExponent e' m') (hfrac : wideFraction e m = wideFraction e' m') :
    e = e' ∧ m = m' := by
  obtain rfl : e = e' := by
    unfold wideExponent subnormalShift at hexp
    split_ifs at hexp <;> omega
  refine ⟨rfl, ?_⟩
  obtain rfl | h0 := eq_or_ne e 0
  · have hzero : m = 0 ↔ m' = 0 := by
      rw [← wideExponent_zero_eq_zero_iff hm, hexp, wideExponent_zero_eq_zero_iff hm']
    by_cases hz : m = 0
    · rw [hz, hzero.1 hz]
    have hz' := mt hzero.2 hz
    obtain ⟨-, hk, hlo, -⟩ := subnormalShift_spec hz hm
    obtain ⟨-, hk', hlo', -⟩ := subnormalShift_spec hz' hm'
    rw [wideExponent_subnormal hz, wideExponent_subnormal hz'] at hexp
    rw [wideFraction_subnormal hz hm, wideFraction_subnormal hz' hm'] at hfrac
    have hshift : subnormalShift m = subnormalShift m' := by omega
    rw [← hshift] at hfrac hlo'
    exact Nat.eq_of_mul_eq_mul_right (Nat.two_pow_pos (subnormalShift m)) (by omega)
  · rwa [wideFraction_of_ne m h0, wideFraction_of_ne m' h0] at hfrac

/-! ### Widening -/

/-- Every half widens to its sign and its two widened fields (R255). -/
theorem widenHalf_eq {h : BitVec 16} {e m : Nat} (he : (h.extractLsb' 10 5).toNat = e)
    (hm : (h.extractLsb' 0 10).toNat = m) : widenHalf h =
      widePattern (h.extractLsb' 15 1) (BitVec.ofNat 8 (wideExponent e m)) (BitVec.ofNat 10 (wideFraction e m)) := by
  have he32 : e < 32 := he ▸ BitVec.isLt _
  have hm1024 : m < 1024 := hm ▸ BitVec.isLt _
  rw [← packSingle_eq_widePattern _ (wideExponent_lt m he32) (wideFraction_lt e hm1024)]
  simp only [widenHalf, he, hm, wideExponent, wideFraction, Nat.shiftLeft_eq m (subnormalShift m)]
  by_cases hz : e = 0
  · by_cases hm0 : m = 0
    · simp [hz, hm0]
    · simp [hz, hm0]
  · by_cases hinf : e = 31
    · simp [hinf]
    · simp [hz, hinf]

/-! ### Reading the pattern -/

section
variable (s : BitVec 1) (e : BitVec 8) (m : BitVec 10)

/-- A zero fraction under a zero exponent leaves the sign alone (R255). -/
theorem widePattern_zero : widePattern s 0 0 = s ++ 0#31 := by
  revert s
  decide

theorem widePattern_sign : (widePattern s e m).extractLsb' 31 1 = s := by
  rw [widePattern, BitVec.extractLsb'_append_eq_of_le (by decide), BitVec.extractLsb'_append_eq_of_le (by decide),
    BitVec.extractLsb'_append_eq_of_le (by decide)]
  exact BitVec.extractLsb'_eq_self

theorem widePattern_exponent : (widePattern s e m).extractLsb' 23 8 = e := by
  rw [widePattern, BitVec.extractLsb'_append_eq_of_le (by decide), BitVec.extractLsb'_append_eq_of_le (by decide),
    BitVec.extractLsb'_append_eq_of_add_le (by decide)]
  exact BitVec.extractLsb'_eq_self

theorem widePattern_fraction : (widePattern s e m).extractLsb' 0 23 = m ++ 0#13 := by
  apply BitVec.eq_of_getLsbD_eq
  intro k hk
  have hm : k - 13 < 10 := by omega
  simp only [BitVec.getLsbD_extractLsb', widePattern, BitVec.getLsbD_append, hk, hm, decide_true, Bool.true_and,
    Nat.zero_add, if_true]

end

/-! ## The image of a half -/

section
variable (h : BitVec 16)

/-- The widening keeps the sign (R255). -/
theorem widenHalf_sign : (widenHalf h).extractLsb' 31 1 = h.extractLsb' 15 1 := by
  rw [widenHalf_eq rfl rfl, widePattern_sign]

theorem widenHalf_exponent :
    ((widenHalf h).extractLsb' 23 8).toNat = wideExponent (h.extractLsb' 10 5).toNat (h.extractLsb' 0 10).toNat := by
  rw [widenHalf_eq rfl rfl, widePattern_exponent, BitVec.toNat_ofNat,
    Nat.mod_eq_of_lt (wideExponent_lt _ (BitVec.isLt _))]

theorem widenHalf_fraction : ((widenHalf h).extractLsb' 0 23).toNat =
    wideFraction (h.extractLsb' 10 5).toNat (h.extractLsb' 0 10).toNat * 2 ^ 13 := by
  rw [widenHalf_eq rfl rfl, widePattern_fraction, BitVec.toNat_append, BitVec.toNat_ofNat, BitVec.toNat_ofNat,
    Nat.mod_eq_of_lt (wideFraction_lt _ (BitVec.isLt _)), Nat.shiftLeft_eq, Nat.zero_mod, Nat.or_zero]

theorem widenHalf_getLsbD_sign : (widenHalf h).getLsbD 31 = h.getLsbD 15 := by
  simpa using congrArg (BitVec.getLsbD · 0) (widenHalf_sign h)

/-- The widening has the exponent of an infinity or a NaN exactly when the half has (R255). -/
theorem widenHalf_exponent_max_iff : (widenHalf h).extractLsb' 23 8 = 0xFF#8 ↔ h.extractLsb' 10 5 = 31#5 := by
  rw [← BitVec.toNat_inj, ← BitVec.toNat_inj, widenHalf_exponent]
  exact wideExponent_eq_max_iff _ (BitVec.isLt _)

end

/-- A half is its three fields (R255). -/
theorem half_ext {h h' : BitVec 16} (hs : h.extractLsb' 15 1 = h'.extractLsb' 15 1)
    (he : (h.extractLsb' 10 5).toNat = (h'.extractLsb' 10 5).toNat)
    (hm : (h.extractLsb' 0 10).toNat = (h'.extractLsb' 0 10).toNat) : h = h' := by
  have hs' := congrArg BitVec.toNat hs
  simp only [BitVec.extractLsb'_toNat, Nat.shiftRight_eq_div_pow] at hs' he hm
  exact BitVec.eq_of_toNat_eq (by omega)

/-- No two halves share an image (R255). -/
theorem widenHalf_injective {h h' : BitVec 16} (heq : widenHalf h = widenHalf h') : h = h' := by
  have hexp := widenHalf_exponent h
  have hfrac := widenHalf_fraction h
  rw [heq, widenHalf_exponent] at hexp
  rw [heq, widenHalf_fraction] at hfrac
  obtain ⟨he, hm⟩ := wideFields_injective (BitVec.isLt _) (BitVec.isLt _) (BitVec.isLt _) (BitVec.isLt _) hexp.symm
    (Nat.eq_of_mul_eq_mul_right (Nat.two_pow_pos 13) hfrac.symm)
  exact half_ext (by rw [← widenHalf_sign, heq, widenHalf_sign]) he hm

/-! ## The value -/

/-- The magnitude of a finite pattern in units of its smallest subnormal. -/
def floatMagnitude (nf e m : Nat) : Nat := if e = 0 then m else (2 ^ nf + m) * 2 ^ (e - 1)

theorem floatValue_eq (nf ne : Nat) {w : Nat} (x : BitVec w) : floatValue nf ne x =
    let mag : Int := floatMagnitude nf (x.extractLsb' nf ne).toNat (x.extractLsb' 0 nf).toNat
    if x.getLsbD (nf + ne) then -mag else mag := rfl

/-- Normalising a subnormal and rebiasing an exponent keep the magnitude (R255). -/
theorem floatMagnitude_wide {e m : Nat} (he : e < 31) (hm : m < 1024) :
    floatMagnitude 23 (wideExponent e m) (wideFraction e m * 2 ^ 13) = floatMagnitude 10 e m * 2 ^ 125 := by
  obtain rfl | h0 := eq_or_ne e 0
  · obtain rfl | hz := eq_or_ne m 0
    · rfl
    obtain ⟨h1, h10, hlo, -⟩ := subnormalShift_spec hz hm
    have hpow : 2 ^ subnormalShift m * 2 ^ 13 * 2 ^ (113 - subnormalShift m - 1) = 2 ^ 125 := by
      rw [← pow_add, ← pow_add]
      congr 1
      omega
    have hfrac : 2 ^ 23 + (m * 2 ^ subnormalShift m - 1024) * 2 ^ 13 = m * 2 ^ subnormalShift m * 2 ^ 13 := by omega
    rw [floatMagnitude, wideExponent_subnormal hz, wideFraction_subnormal hz hm, if_neg (by omega), hfrac,
      floatMagnitude, if_pos rfl, ← hpow]
    ring
  · have hpow : 2 ^ 13 * 2 ^ (e + 112 - 1) = 2 ^ (e - 1) * 2 ^ 125 := by
      rw [← pow_add, ← pow_add]
      congr 1
      omega
    rw [floatMagnitude, wideExponent_normal m h0 (by omega), wideFraction_of_ne m h0, if_neg (by omega),
      floatMagnitude, if_neg h0, mul_assoc, ← hpow]
    ring

/-- Settles O28: the sign is kept, and the magnitude is scaled by the ratio of the units. -/
theorem wideningKeepsTheValue : Obligations.WideningKeepsTheValue := by
  unfold Obligations.WideningKeepsTheValue
  intro h hfin
  have he : (h.extractLsb' 10 5).toNat < 31 := by
    have hne : (h.extractLsb' 10 5).toNat ≠ 31 := fun he => hfin (BitVec.eq_of_toNat_eq he)
    omega
  rw [floatValue_eq, floatValue_eq, widenHalf_exponent, widenHalf_fraction, floatMagnitude_wide he (BitVec.isLt _),
    widenHalf_getLsbD_sign]
  split_ifs <;> push_cast <;> ring

/-- Settles O27: the four classes are the cases of the widened exponent and fraction, which determine the half's; the
one signed result that is not finite is that of -32768. -/
theorem halfWideningFollowsIeee : Obligations.HalfWideningFollowsIeee := by
  unfold Obligations.HalfWideningFollowsIeee
  refine ⟨by decide, fun x hlo hhi hexp => ?_, fun h h' => widenHalf_injective, fun h => ?_⟩
  · obtain rfl | hx := hlo.eq_or_lt
    · exact finishUnquantize_min
    · exact absurd hexp (finishUnquantize_signed_finite (abs_le.2 ⟨hx, hhi⟩))
  · intro s e m
    have hwide : widenHalf h = widePattern s (BitVec.ofNat 8 (wideExponent e.toNat m.toNat))
        (BitVec.ofNat 10 (wideFraction e.toNat m.toNat)) := widenHalf_eq rfl rfl
    refine ⟨fun he hm => ?_, fun he hm => ?_, fun he hinf => ?_, fun he => ?_⟩
    · rw [hwide, he, hm]
      exact widePattern_zero s
    · have hm0 : m.toNat ≠ 0 := fun hz => hm (BitVec.eq_of_toNat_eq hz)
      obtain ⟨h1, h10, hlo, hhi⟩ := subnormalShift_spec hm0 m.isLt
      refine ⟨_, h1, h10, hlo, hhi, ?_⟩
      rw [hwide, show e.toNat = 0 from congrArg BitVec.toNat he, wideExponent_subnormal hm0,
        wideFraction_subnormal hm0 m.isLt]
      rfl
    · have he0 : e.toNat ≠ 0 := fun hz => he (BitVec.eq_of_toNat_eq hz)
      have he31 : e.toNat ≠ 31 := fun hz => hinf (BitVec.eq_of_toNat_eq hz)
      rw [hwide, wideExponent_normal _ he0 he31, wideFraction_of_ne _ he0, BitVec.ofNat_toNat, BitVec.setWidth_eq]
      rfl
    · rw [hwide, show e.toNat = 31 from congrArg BitVec.toNat he, wideExponent_special,
        wideFraction_of_ne _ (by decide), BitVec.ofNat_toNat, BitVec.setWidth_eq]
      rfl

end Sys2Proof.Machine
end

section
/-! PROOFS, 45_quant_scaler: which words a BC6H decode writes (R182, R252, R259). -/

namespace Sys2Proof.Machine

/-! ## What reaches the final conversion -/

/-- The interpolated value of channel `c` of texel `i`, before the final conversion (R284). -/
def bc6hBlend (signed : Bool) (m : Bc6hMode) (f : Bc6hFields) (i : Nat) (c : Chan) : Int :=
  let d := bc6hDesc m
  let part := if d.ns = 2 then f.d.toNat else 0
  let sub := partitionTable d.ns part i
  let u (k : Nat) : Int := unquantize6 (bc6hChannel d signed f k c) d.eb signed
  interpolate (u (2 * sub)) (u (2 * sub + 1)) (colorIndex f.index.toNat i d.iw d.ns part) d.iw

theorem bc6hTexel_eq (enc : NegEncoding) (signed : Bool) (m : Bc6hMode) (f : Bc6hFields) (i : Nat) (c : Chan) :
    bc6hTexel enc signed m f i c = widenHalf (finishUnquantize enc (bc6hBlend signed m f i c) signed) := rfl

/-- What bounds every unquantized endpoint channel bounds the blend (R233). -/
theorem bc6hBlend_range {signed : Bool} {m : Bc6hMode} {f : Bc6hFields} {c : Chan} {lo hi : Int}
    (h : ∀ k, lo ≤ unquantize6 (bc6hChannel (bc6hDesc m) signed f k c) (bc6hDesc m).eb signed ∧
      unquantize6 (bc6hChannel (bc6hDesc m) signed f k c) (bc6hDesc m).eb signed ≤ hi) (i : Nat) :
    lo ≤ bc6hBlend signed m f i c ∧ bc6hBlend signed m f i c ≤ hi :=
  interpolate_range (h _) (h _) _ _

/-- The unsigned path stays in 0..0xFFFF (R252). -/
theorem bc6hBlend_unsigned_range {m : Bc6hMode} {f : Bc6hFields} (h : f.wf (bc6hDesc m) = true) (i : Nat) {c : Chan}
    (hc : c ≠ .a) : 0 ≤ bc6hBlend false m f i c ∧ bc6hBlend false m f i c ≤ 0xFFFF := by
  refine bc6hBlend_range (fun k => ?_) i
  obtain ⟨h0, hlt⟩ := bc6hChannel_unsigned_range h k hc
  exact unquantizeUnsigned_range (one_le_bc6hDesc_eb m) (bc6hDesc_eb m).2 h0 (Int.le_sub_one_of_lt hlt)

/-- The signed path keeps to 15-bit magnitudes in every mode below 16 endpoint bits (R251). -/
theorem bc6hBlend_signed_abs_le {m : Bc6hMode} (hm : (bc6hDesc m).eb < 16) (f : Bc6hFields) (i : Nat) (c : Chan) :
    |bc6hBlend true m f i c| ≤ 0x7FFF :=
  abs_le.2 (bc6hBlend_range (fun _ => unquantizeSigned_range _ hm) i)

/-- With 16 endpoint bits the signed path reaches -32768 (R182). -/
theorem bc6hBlend_signed_range {m : Bc6hMode} (hm : (bc6hDesc m).eb = 16) (f : Bc6hFields) (i : Nat) {c : Chan}
    (hc : c ≠ .a) : -32768 ≤ bc6hBlend true m f i c ∧ bc6hBlend true m f i c ≤ 0x7FFF := by
  refine bc6hBlend_range (fun k => ?_) i
  obtain ⟨hlo, hhi⟩ := bc6hChannel_signed_range m f k hc
  rw [unquantize6_signed, unquantizeSigned_wide _ hm.ge]
  rw [hm] at hlo hhi
  omega

theorem bc6hDesc_eb_eq_16_iff (m : Bc6hMode) : (bc6hDesc m).eb = 16 ↔ m = .m0F := by
  cases m <;> decide

/-! ## Every word of a decode -/

theorem bc6hChan_ne_alpha (n : Nat) : bc6hChan n ≠ .a := by
  unfold bc6hChan
  split <;> decide

/-- Every word a BC6H decode command writes is that of a texel of the block's mode, or 0 where it has none (R283,
R284). -/
theorem decodeBlkBc6h_word {signed : Bool} {s t : State} (h : decodeBlkBc6h signed s = .next t) (j : Fin 48) :
    (∃ m, bc6hModeOfId (bc6hSelector s.blk).1 = some m ∧ t.outf[j] =
      bc6hTexel s.sf16Neg signed m (bc6hFieldsOf m s.blk) (j.val / 3) (bc6hChan (j.val % 3))) ∨ t.outf[j] = 0 := by
  cases hsel : bc6hModeOfId (bc6hSelector s.blk).1 with
  | some m =>
    obtain ⟨t', ht', -, htexel⟩ := runBc6h_valid m signed (bc6hFieldsOf m s.blk) s
    rw [decodeBlkBc6h_valid signed s m hsel, ht'] at h
    obtain rfl := Host.Outcome.next.inj h
    refine .inl ⟨m, rfl, ?_⟩
    have hj := htexel ⟨j.val / 3, by omega⟩ ⟨j.val % 3, by omega⟩
    simp only [Nat.div_add_mod] at hj
    exact hj
  | none =>
    obtain ⟨t', ht', -, hzero⟩ := runBc6h_invalid (bc6hSelector s.blk).1 signed s
    rw [decodeBlkBc6h_invalid signed s hsel, ht'] at h
    obtain rfl := Host.Outcome.next.inj h
    exact .inr (hzero j)

/-- Settles O41: the blend is in 0..0xFFFF, so its half is at most 0x7BFF, and the widening keeps sign and
finiteness. -/
theorem unsignedOutputsAreFinite : Obligations.UnsignedOutputsAreFinite := by
  unfold Obligations.UnsignedOutputsAreFinite
  intro s t ht j
  rw [exec_decbc6u] at ht
  obtain ⟨m, -, hj⟩ | hj := decodeBlkBc6h_word ht j
  · obtain ⟨h0, hhi⟩ := bc6hBlend_unsigned_range (bc6hFieldsOf_wf m s.blk) (j.val / 3) (bc6hChan_ne_alpha (j.val % 3))
    have hle := finishUnquantize_unsigned_le s.sf16Neg h0 hhi
    rw [hj, bc6hTexel_eq, widenHalf_getLsbD_sign, Ne, widenHalf_exponent_max_iff]
    exact ⟨Nat.testBit_lt_two_pow (by omega), halfExponent_ne (by omega)⟩
  · rw [hj]
    decide

/-- Settles O42: only -32768 leaves the finite halves, and only 16 endpoint bits, those of mode 0x0F, reach it. -/
theorem signedOutputsAreNumbers : Obligations.SignedOutputsAreNumbers := by
  unfold Obligations.SignedOutputsAreNumbers
  intro s t henc ht j hmax
  rw [exec_decbc6s] at ht
  obtain ⟨m, hsel, hj⟩ | hj := decodeBlkBc6h_word ht j
  · rw [hj, bc6hTexel_eq, henc] at hmax ⊢
    rw [widenHalf_exponent_max_iff] at hmax
    have heb : (bc6hDesc m).eb = 16 := by
      by_contra hne
      have hlt := (bc6hDesc_eb m).2.lt_of_ne hne
      exact finishUnquantize_signed_finite (bc6hBlend_signed_abs_le hlt _ _ _) hmax
    obtain rfl := (bc6hDesc_eb_eq_16_iff m).1 heb
    have hmode : memRead s.blk 0 5 = 0x0F := (modeOfId_selector_iff s.blk .m0F).1 hsel
    rw [memRead_eq_extract] at hmode
    refine ⟨?_, BitVec.eq_of_toNat_eq hmode⟩
    obtain ⟨hlo, hhi⟩ := bc6hBlend_signed_range heb (bc6hFieldsOf .m0F s.blk) (j.val / 3)
      (bc6hChan_ne_alpha (j.val % 3))
    obtain hmin | hgt := hlo.eq_or_lt
    · rw [← hmin, finishUnquantize_min]
      decide
    · exact absurd hmax (finishUnquantize_signed_finite (abs_le.2 ⟨hgt, hhi⟩))
  · rw [hj] at hmax
    exact absurd hmax (by decide)

end Sys2Proof.Machine
end

section
/-! PROOFS, 46_output_formatter: what the decode commands write (R284 to R289), and the all-zero block (R290). -/

namespace Sys2Proof.Machine

/-! ## What each decode command writes -/

/-- DECBC6U and DECBC6S write every texel of a block that has a mode (R284). -/
theorem decodeBlkBc6h_decoded {s : State} {m : Bc6hMode} (h : bc6hModeOfId (bc6hSelector s.blk).1 = some m)
    (signed : Bool) : ∃ t, decodeBlkBc6h signed s = .next t ∧ DecodedBc6h s t false ∧ ∀ (i : Fin 16) (c : Fin 3),
      t.outf[3 * i.val + c.val] = bc6hTexel s.sf16Neg signed m (bc6hFieldsOf m s.blk) i.val (bc6hChan c.val) := by
  rw [decodeBlkBc6h_valid signed s m h]
  exact runBc6h_valid m signed (bc6hFieldsOf m s.blk) s

/-- DECBC6U and DECBC6S on a block whose selector is reserved (R100, R283). -/
theorem decodeBlkBc6h_reserved {s : State} (h : bc6hModeOfId (bc6hSelector s.blk).1 = none) (signed : Bool) :
    ∃ t, decodeBlkBc6h signed s = .next t ∧ DecodedBc6h s t true ∧ ∀ j : Fin 48, t.outf[j] = 0 := by
  rw [decodeBlkBc6h_invalid signed s h]
  exact runBc6h_invalid _ signed s

/-- A valid BC7 block writes every texel to OUTB and clears INVALID (R282, R285). -/
theorem runBc7_valid (m : Bc7Mode) (f : Bc7Fields) (s : State) :
    ∃ t, runBc7 (parseBc7 m f) s = .next t ∧ DecodedBc7 s t false ∧ ∀ (i : Fin 16) (c : Fin 4),
      t.outb[4 * i.val + c.val] = BitVec.ofInt 8 (bc7Value m f i.val (rotatedFrom f.rot (bc7Chan c.val))) :=
  ⟨_, runBc7_eq _ s, ⟨rfl, invalidWritten_statusWithInvalid s.status false⟩, bc7Output_parse m f⟩

/-- DECBC7 on a block of the reserved mode (R105, R283). -/
theorem exec_decbc7_reserved {s : State} (h : bc7Selector s.blk = 8) :
    ∃ t, exec .decbc7 s = .next t ∧ DecodedBc7 s t true ∧ ∀ j : Fin 64, t.outb[j] = 0 := by
  rw [exec_decbc7_invalid s (by rw [h]; rfl)]
  exact runBc7_invalid s

/-- Settles O33: both commands run the parse of BLK, which differs between them in SIGNED alone; without a mode they
zero-fill, and both reserve bits 31:4. -/
theorem bc6hDecodesWriteEveryTexel : Obligations.Bc6hDecodesWriteEveryTexel := by
  unfold Obligations.Bc6hDecodesWriteEveryTexel
  refine ⟨fun s m h => ?_, fun s h => ?_, fun w => ⟨fun hop => ?_, fun hop => ?_⟩⟩
  · obtain ⟨t, ht, hdt, htexel⟩ := decodeBlkBc6h_decoded h false
    obtain ⟨u, hu, hdu, hutexel⟩ := decodeBlkBc6h_decoded h true
    exact ⟨t, u, ht, hdt, hu, hdu, fun i c => ⟨htexel i c, hutexel i c⟩⟩
  · obtain ⟨t, ht, hdt, htzero⟩ := decodeBlkBc6h_reserved h false
    obtain ⟨u, hu, hdu, huzero⟩ := decodeBlkBc6h_reserved h true
    exact ⟨t, u, ht, hdt, hu, hdu, fun j => ⟨htzero j, huzero j⟩⟩
  · exact spells_of_reservedField hop rfl le_rfl commandOf_decbc6u
  · exact spells_of_reservedField hop rfl le_rfl commandOf_decbc6s

/-- Settles O35: a block instruction runs the parse of its fields and DECBC7 that of BLK's; the reserved mode
zero-fills, and DECBC7 reserves bits 31:4. -/
theorem bc7DecodesWriteEveryTexel : Obligations.Bc7DecodesWriteEveryTexel := by
  unfold Obligations.Bc7DecodesWriteEveryTexel
  refine ⟨fun s m f => ?_, fun s m h => ?_, fun s h => exec_decbc7_reserved h, fun w hop => ?_⟩
  · rw [exec_ofBc7]
    exact runBc7_valid m f s
  · rw [exec_decbc7_valid s m (by rw [h, bc7ModeOfId_modeId])]
    exact runBc7_valid m (bc7FieldsOf m s.blk) s
  · exact spells_of_reservedField hop rfl le_rfl commandOf_decbc7

/-! ## The all-zero block -/

/-- Every field of the all-zero block is 0 (R173). -/
theorem gather_zero {F : Type} [DecidableEq F] (rows : List (LayoutRow F)) (x : F) : gather 0 rows x = 0 := by
  have hread (lo len : Nat) : memRead 0#128 lo len = 0 := by simp [memRead]
  simp [gather, hread]

theorem bc6hFieldsOf_zero_chan (m : Bc6hMode) (k : Nat) (c : Chan) :
    ((bc6hFieldsOf m 0).endpoint k).chan c = 0 := by
  simp only [bc6hFieldsOf, gather_zero]
  match k with
  | 0 | 1 | 2 | 3 | k + 4 => cases c <;> rfl

/-- Sign extension and masking keep 0, so a channel that is 0 in every stored endpoint is reconstructed as 0 (R174 to
R177). -/
theorem bc6hChannel_of_zero {f : Bc6hFields} {c : Chan} (h : ∀ k, (f.endpoint k).chan c = 0) (d : Bc6hDesc)
    (signed : Bool) (k : Nat) : bc6hChannel d signed f k c = 0 := by
  have he0 : f.e0.chan c = 0 := h 0
  have hsext (n : Nat) : sextN n 0 = 0 := by simp [sextN, maskN]
  simp [bc6hChannel, bc6hBase, signExtendIf, h k, he0, hsext, maskN]

/-- A channel that is 0 in every stored endpoint gives +0.0 at every texel, whatever the indices (R284). -/
theorem bc6hTexel_of_zero {f : Bc6hFields} {c : Chan} (h : ∀ k, (f.endpoint k).chan c = 0) (enc : NegEncoding)
    (signed : Bool) (m : Bc6hMode) (i : Nat) : bc6hTexel enc signed m f i c = 0 := by
  have hunq (k : Nat) : unquantize6 (bc6hChannel (bc6hDesc m) signed f k c) (bc6hDesc m).eb signed = 0 := by
    rw [bc6hChannel_of_zero h]
    cases signed with
    | true => exact unquantizeSigned_zero _
    | false => exact unquantizeUnsigned_zero _
  have hblend : bc6hBlend signed m f i c = 0 := by
    obtain ⟨hlo, hhi⟩ := bc6hBlend_range (fun k => ⟨(hunq k).ge, (hunq k).le⟩) i
    exact le_antisymm hhi hlo
  have hfinish : finishUnquantize enc 0 signed = 0 := by
    cases enc <;> cases signed <;> rfl
  rw [bc6hTexel_eq, hblend, hfinish]
  rfl

/-- DECBC6U and DECBC6S read the all-zero block as a block of mode 0x00 and write zeros (R290). -/
theorem decodeBlkBc6h_zero {s : State} (hblk : s.blk = 0) (signed : Bool) :
    ∃ t, decodeBlkBc6h signed s = .next t ∧ DecodedBc6h s t false ∧ ∀ j : Fin 48, t.outf[j] = 0 := by
  have hsel : bc6hModeOfId (bc6hSelector s.blk).1 = some .m00 := by rw [hblk]; rfl
  obtain ⟨t, ht, hdecoded, -⟩ := decodeBlkBc6h_decoded hsel signed
  refine ⟨t, ht, hdecoded, fun j => ?_⟩
  obtain ⟨m, -, hj⟩ | hj := decodeBlkBc6h_word ht j
  · rw [hj, hblk, bc6hTexel_of_zero fun k => bc6hFieldsOf_zero_chan m k _]
  · exact hj

/-- Settles O39: zero endpoints give zeros whatever SIGNED is, and byte 0 of the block has no set bit to name a BC7
mode. -/
theorem zeroBlockDecodesToZeros : Obligations.ZeroBlockDecodesToZeros := by
  unfold Obligations.ZeroBlockDecodesToZeros
  intro s hblk
  have hsel : bc7Selector s.blk = 8 := by rw [hblk]; rfl
  exact ⟨decodeBlkBc6h_zero hblk false, decodeBlkBc6h_zero hblk true, exec_decbc7_reserved hsel⟩

end Sys2Proof.Machine
end

section
/-! PROOFS, 60_exceptions: the faulted state and the way out of it (R314, R315), commands as atomic steps with precise
faults (R310, R311), NOP (R318), and that every step and every run completes (R355). -/

namespace Sys2Proof.Machine

/-! ## NOP -/

/-- Settles O13: 0 is the word of NOP, which reserves bits 31:4. -/
theorem nopChangesNothing : Obligations.NopChangesNothing := by
  unfold Obligations.NopChangesNothing
  exact ⟨fun _ => rfl, fun w hop => spells_of_reservedField hop rfl le_rfl commandOf_nop,
    fun s rest h => step_cmdWrite s rest h (commandsSurviveEncoding .nop 0 rfl)⟩

/-! ## The faulted state -/

/-- A bad read of a faulted decoder returns 0 and raises no second fault (R314). -/
theorem hostRead_bad_faulted (width : Nat) (off : BitVec 10) (s : State) (h : s.faulted = true)
    (hr : accessReg width off = none) : hostRead width off s = .next (returnWord 0 s) := by
  rw [hostRead_bad width off s hr, if_pos h]

/-- Settles O45: the port checks FAULT before a write, and does not check it before a mapped read. -/
theorem faultedInstanceIsQuiescent : Obligations.FaultedInstanceIsQuiescent := by
  unfold Obligations.FaultedInstanceIsQuiescent
  intro s width off v rest h
  exact ⟨(step_event s _ rest).trans (hostWrite_faulted width off v _ h),
    fun r hr => (step_event s _ rest).trans (hostRead_reg width off _ r hr),
    fun hr => (step_event s _ rest).trans (hostRead_bad_faulted width off _ h hr)⟩

/-- The next access to a faulted decoder changes nothing but what the host has read (R314). -/
theorem step_access_faulted {e : HostEvent} (he : e.isAccess = true) (s : State) (rest : List HostEvent)
    (h : s.faulted = true) :
    ∃ log, step { s with hostIn := e :: rest } = .next { s with hostIn := rest, readLog := log } := by
  cases e with
  | write width off v => exact ⟨s.readLog, (faultedInstanceIsQuiescent s width off v rest h).1⟩
  | read width off =>
    obtain ⟨-, hreg, hbad⟩ := faultedInstanceIsQuiescent s width off 0 rest h
    cases hr : accessReg width off with
    | some r => exact ⟨readReg r s :: s.readLog, hreg r hr⟩
    | none => exact ⟨0 :: s.readLog, hbad hr⟩
  | reset d => cases he

/-- A run of a faulted decoder takes the pending accesses one by one and keeps every register (R314, R321). -/
theorem run_faulted (k : Nat) (s : State) (pending : List HostEvent) (h : s.faulted = true)
    (hacc : ∀ e ∈ pending, e.isAccess = true) :
    ∃ log, Host.Core.run Sys2Proof.core k { s with hostIn := pending } =
      .next { s with hostIn := pending.drop k, readLog := log } := by
  induction k generalizing s pending with
  | zero => exact ⟨s.readLog, rfl⟩
  | succ k ih =>
    cases pending with
    | nil =>
      obtain ⟨log, hrun⟩ := ih s [] h nofun
      refine ⟨log, (run_succ_of_step k (step_idle _ rfl)).trans ?_⟩
      rwa [List.drop_nil] at hrun ⊢
    | cons e rest =>
      obtain ⟨he, hrest⟩ := List.forall_mem_cons.1 hacc
      obtain ⟨log, hstep⟩ := step_access_faulted he s rest h
      obtain ⟨log', hrun⟩ := ih { s with readLog := log } rest h hrest
      exact ⟨log', (run_succ_of_step k hstep).trans hrun⟩

theorem takeReset_not_faulted (d : ResetDraw) (s : State) : (takeReset d s).faulted = false := by
  rw [State.faulted, takeReset_status]
  decide

theorem takeReset_cause (d : ResetDraw) (s : State) : statusCause (takeReset d s).status = 0 := by
  rw [takeReset_status]
  decide

/-- Settles O46: each access keeps the registers of a faulted decoder, and the reset event clears STATUS. -/
theorem faultLastsUntilReset : Obligations.FaultLastsUntilReset := by
  unfold Obligations.FaultLastsUntilReset
  refine ⟨fun k s h hacc => ?_, fun s d rest => ?_⟩
  · obtain ⟨log, hrun⟩ := run_faulted k s s.hostIn h hacc
    exact ⟨_, hrun, rfl⟩
  · exact ⟨takeReset d { s with hostIn := rest }, step_event s (.reset d) rest, takeReset_not_faulted d _,
      takeReset_cause d _⟩

/-! ## The effect of a CMD write -/

/-- No effect but a fault entry sets FAULT. -/
theorem Effect.eq_fault_of_faulted {e : Effect} {s : State} (h : s.faulted = false)
    (ht : (e.applyTo s).faulted = true) : ∃ c, e = .fault c := by
  cases e with
  | fault c => exact ⟨c, rfl⟩
  | keep | result v => exact absurd (h.symm.trans ht) Bool.false_ne_true
  | bc6h pb | bc7 pb =>
    have hkept : s.faulted = true := (statusWithInvalid_fault s.status _).symm.trans ht
    exact absurd (h.symm.trans hkept) Bool.false_ne_true

/-- The outcome `o` of a command is one effect on `s`, and not BAD_ACCESS, the fault of an access (R310, R311). -/
def HasCommandEffect (o : Out) (s : State) : Prop :=
  ∃ e : Effect, e ≠ .fault .badAccess ∧ o = .next (e.applyTo s)

theorem hasCommandEffect_faultWith {c : Cause} (hc : c ≠ .badAccess) (s : State) :
    HasCommandEffect (faultWith c s) s :=
  ⟨.fault c, fun h => hc (Effect.fault.inj h), rfl⟩

/-- A command that writes RES inside its operand domain and raises a fault of its own outside it. -/
theorem hasCommandEffect_of_domain {o : Out} {s : State} {inDomain : Bool} {v : BitVec 64} {c : Cause}
    (hin : inDomain = true → o = .next (writeRes v s)) (hout : inDomain = false → o = faultWith c s)
    (hc : c ≠ .badAccess) : HasCommandEffect o s := by
  cases h : inDomain with
  | true => exact ⟨.result v, nofun, hin h⟩
  | false => exact hout h ▸ hasCommandEffect_faultWith hc s

theorem decodeBlkBc6h_hasCommandEffect (signed : Bool) (s : State) :
    HasCommandEffect (decodeBlkBc6h signed s) s := by
  obtain ⟨pb, -, hrun⟩ := decodeBlkBc6h_eq_run signed s.blk
  exact ⟨.bc6h pb, nofun, hrun s rfl⟩

theorem exec_decbc7_hasCommandEffect (s : State) : HasCommandEffect (exec .decbc7 s) s := by
  obtain ⟨pb, hrun⟩ := exec_decbc7_eq_run s.blk
  exact ⟨.bc7 pb, nofun, hrun s rfl⟩

/-- No instruction raises BAD_ACCESS (R311). -/
theorem exec_hasCommandEffect (i : Instr) (s : State) : HasCommandEffect (exec i s) s := by
  cases i with
  | nop => exact ⟨.keep, nofun, rfl⟩
  | rdbit off => exact ⟨.result _, nofun, exec_rdbit off s⟩
  | rdbits off len =>
    exact hasCommandEffect_of_domain (exec_rdbits_inRange off len s) (exec_rdbits_outOfRange off len s) nofun
  | decbc6u => exact decodeBlkBc6h_hasCommandEffect false s
  | decbc6s => exact decodeBlkBc6h_hasCommandEffect true s
  | decbc7 => exact exec_decbc7_hasCommandEffect s
  | modeq codec =>
    cases codec with
    | bc6h => exact ⟨.result _, nofun, exec_modeq_bc6h s⟩
    | bc7 => exact ⟨.result _, nofun, exec_modeq_bc7 s⟩
  | partq ns p k =>
    exact hasCommandEffect_of_domain (exec_partq_inDomain ns p k s) (exec_partq_outOfDomain ns p k s) nofun
  | interp idx prec =>
    exact hasCommandEffect_of_domain (exec_interp_inDomain idx prec s) (exec_interp_outOfDomain idx prec s) nofun
  | unq6 n sg =>
    exact hasCommandEffect_of_domain (exec_unq6_inDomain n sg s) (exec_unq6_outOfDomain n sg s) nofun
  | finish sg =>
    exact hasCommandEffect_of_domain (exec_finish_inDomain sg s) (exec_finish_outOfDomain sg s) nofun
  | expand7 n v =>
    exact hasCommandEffect_of_domain (exec_expand7_inDomain n v s) (exec_expand7_outOfDomain n v s) nofun
  | reservedC rest | reservedD rest | reservedE rest | reservedF rest =>
    exact hasCommandEffect_faultWith (c := .badOpcode) nofun s
  | bc6hMode00 f | bc6hMode01 f | bc6hMode02 f | bc6hMode06 f | bc6hMode0A f | bc6hMode0E f | bc6hMode12 f
  | bc6hMode16 f | bc6hMode1A f | bc6hMode1E f | bc6hMode03 f | bc6hMode07 f | bc6hMode0B f | bc6hMode0F f
  | bc6hReserved13 rest | bc6hReserved17 rest | bc6hReserved1B rest | bc6hReserved1F rest =>
    exact ⟨.bc6h _, nofun, rfl⟩
  | bc7Mode0 f | bc7Mode1 f | bc7Mode2 f | bc7Mode3 f | bc7Mode4 f | bc7Mode5 f | bc7Mode6 f | bc7Mode7 f
  | bc7Reserved rest => exact ⟨.bc7 _, nofun, rfl⟩

/-- A CMD write is one effect on the state that holds its word (R70, R310). -/
theorem runCommand_hasCommandEffect (w : Word) (s : State) :
    HasCommandEffect (runCommand w s) { s with cmd := w } := by
  cases hd : decodeCommand w with
  | ok i => exact runCommand_ok w s i hd ▸ exec_hasCommandEffect i _
  | error err =>
    cases err
    exact runCommand_error w s hd ▸ hasCommandEffect_faultWith (c := .reservedField) nofun _

/-- The cause codes of a CMD write (R311). -/
theorem causeCode_range_of_command {c : Cause} (hc : c ≠ .badAccess) :
    1 ≤ (causeCode c).toNat ∧ (causeCode c).toNat ≤ 4 := by
  cases c with
  | badAccess => exact absurd rfl hc
  | badOpcode | reservedField | readRange | badOperand => decide

theorem raiseFault_faultEntered (c : Cause) (s : State) : FaultEntered s (raiseFault c s) (causeCode c) := by
  obtain ⟨t, ht, hentered⟩ := faultWith_faults c s
  exact Host.Outcome.next.inj ht ▸ hentered

/-- Settles O43: the effect of a CMD write keeps the word and the later accesses, and FAULT is set only by the fault
entry of one of the four causes of a command. -/
theorem faultsArePrecise : Obligations.FaultsArePrecise := by
  unfold Obligations.FaultsArePrecise
  intro s w rest h
  obtain ⟨e, hne, he⟩ := runCommand_hasCommandEffect w { s with hostIn := rest }
  refine ⟨_, (step_write_reg .cmd w s rest h).trans he, e.applyTo_hostIn _, e.applyTo_cmd _, fun hfault => ?_⟩
  obtain ⟨c, rfl⟩ := Effect.eq_fault_of_faulted (s := { s with cmd := w, hostIn := rest }) h hfault
  have hcause : (raiseFault c { s with cmd := w, hostIn := rest }).status.extractLsb' 4 4 = causeCode c :=
    statusWithFault_cause s.status c
  rw [Effect.applyTo, hcause]
  exact ⟨raiseFault_faultEntered c _, causeCode_range_of_command fun hc => hne (congrArg Effect.fault hc)⟩

/-! ## Every step completes -/

theorem writeReg_completes (r : HostReg) (v : Word) (s : State) : ∃ t, writeReg r v s = .next t := by
  cases r with
  | cmd =>
    obtain ⟨e, -, he⟩ := runCommand_hasCommandEffect v s
    exact ⟨_, he⟩
  | arg0 | arg1 | blkW k | status | resLo | resHi | outf k | outbW k => exact ⟨_, rfl⟩

theorem hostWrite_completes (width : Nat) (off : BitVec 10) (v : Word) (s : State) :
    ∃ t, hostWrite width off v s = .next t := by
  cases hf : s.faulted with
  | true => exact ⟨s, hostWrite_faulted width off v s hf⟩
  | false =>
    cases hr : accessReg width off with
    | none => exact ⟨_, hostWrite_bad width off v s hf hr⟩
    | some r =>
      rw [hostWrite_reg width off v s r hf hr]
      exact writeReg_completes r v s

theorem hostRead_completes (width : Nat) (off : BitVec 10) (s : State) : ∃ t, hostRead width off s = .next t := by
  cases hr : accessReg width off with
  | some r => exact ⟨_, hostRead_reg width off s r hr⟩
  | none =>
    rw [hostRead_bad width off s hr]
    split <;> exact ⟨_, rfl⟩

/-- One step is one host event or none, and each ends in a next state (R354, R355). -/
theorem step_completes (s : State) : ∃ t, step s = .next t := by
  cases hin : s.hostIn with
  | nil => exact ⟨s, step_idle s hin⟩
  | cons e rest =>
    have hev : step s = hostEvent e { s with hostIn := rest } := by
      rw [← step_event s e rest, ← hin]
    rw [hev]
    cases e with
    | write width off v => exact hostWrite_completes width off v _
    | read width off => exact hostRead_completes width off _
    | reset d => exact ⟨_, rfl⟩

theorem run_completes (k : Nat) (s : State) : ∃ t, Host.Core.run Sys2Proof.core k s = .next t := by
  induction k generalizing s with
  | zero => exact ⟨s, rfl⟩
  | succ k ih =>
    obtain ⟨t, ht⟩ := step_completes s
    obtain ⟨u, hu⟩ := ih t
    exact ⟨u, (run_succ_of_step k ht).trans hu⟩

/-- Settles O58: an instruction ends in the state of its effect, and a run is made of steps that each complete. -/
theorem everyStepCompletes : Obligations.EveryStepCompletes := by
  unfold Obligations.EveryStepCompletes
  refine ⟨fun i s => ?_, step_completes, run_completes⟩
  obtain ⟨e, -, he⟩ := exec_eq_effect i s
  exact ⟨e.applyTo s, he⟩

end Sys2Proof.Machine
end
